-- ==== Sys2Proof/Word.lean ====
section
/-! DEFINITION. The word types of CORE: 8-bit registers and cells, 16-bit I and PC, and the fields of an
instruction word (00_scope.md R5, R12, R13). -/

namespace Sys2Proof

/-- An 8-bit value: a register V, a timer, a memory cell, the field KK. -/
abbrev Byte := BitVec 8

/-- A 16-bit value: I, PC, a stack entry, an instruction word. -/
abbrev Word := BitVec 16

/-- The 12-bit field NNN. -/
abbrev Addr12 := BitVec 12

/-- A 4-bit field read as a number (N, the class). -/
abbrev Nibble := BitVec 4

/-- A register number X or Y, 0..15, naming V0..VF (10_state.md R20). -/
abbrev Reg := Fin 16

/-- VF, the flag register (10_state.md R21). -/
abbrev vf : Reg := 15

end Sys2Proof
end

