-- ==== Sys2Proof/Config.lean ====
section
/-! DEFINITION. What is fixed for one machine (00_scope.md R5), the values its parameter CLASS0_DISPATCH
can have (R7), and the free random byte of each step (R8). The value the spec gives that parameter stands in
Decode.lean, and its default for FONT (R6) in Machine/Font.lean. -/

namespace Sys2Proof

/-- CLASS0_DISPATCH: which bits of a class-0 word are compared with the codes of `CLS` and `RET`
(00_scope.md R7, 30_encoding.md R73). -/
inductive Class0Dispatch where
  | lowByte    -- bits 7..0 against 0xE0 and 0xEE
  | fullWord   -- bits 11..0 against 0x0E0 and 0x0EE
  | lowNibble  -- bits 3..0 against 0x0 and 0xE
  deriving DecidableEq, Repr

/-- MEM_SIZE: addresses 0x000 to 0xFFF (00_scope.md R5). -/
@[simp] abbrev Config.memSize : Nat := 4096

/-- PROG_BASE: the reset value of PC and the address `load` copies to (00_scope.md R5). -/
@[simp] abbrev Config.progBase : Nat := 0x200

/-- PROG_MAX: 4096 - 0x200 bytes (00_scope.md R5). -/
@[simp] abbrev Config.progMax : Nat := 3584

/-- A table FONT: glyph g (0..15) at bytes 5g..5g+4 (00_scope.md R6). -/
abbrev Font := Vector Byte 80

/-- FREE VALUE: the random byte the host supplies with its k-th running step, under no law
(00_scope.md R8). It has no body: nothing can be proved of its values. Log entry 1. -/
opaque Config.rnd : Nat → Byte

end Sys2Proof
end

