-- ==== Sys2Proof/Syntax.lean ====
section
/-! DEFINITION. The instructions of CORE: one constructor for each of the 44 rows of
spec/opcode_table.json (30_encoding.md R69), with the operands of the decoder of R79. The no-op rows keep
the bits they ignore, so that each of their words is written by the encoder (log entry 12). -/

namespace Sys2Proof

/-- One instruction. `x`, `y` are register numbers, `kk` the low byte, `nnn` the low 12 bits,
`n` the low nibble (30_encoding.md R66). -/
inductive Instr where
  | cls                                  -- CLS
  | ret                                  -- RET
  | sys (nnn : Addr12)                   -- SYS addr (no-op)
  | jp (nnn : Addr12)                    -- JP addr
  | call (nnn : Addr12)                  -- CALL addr
  | seByte (x : Reg) (kk : Byte)         -- SE Vx, byte
  | sneByte (x : Reg) (kk : Byte)        -- SNE Vx, byte
  | seReg (x y : Reg)                    -- SE Vx, Vy
  | ldByte (x : Reg) (kk : Byte)         -- LD Vx, byte
  | addByte (x : Reg) (kk : Byte)        -- ADD Vx, byte
  | ldReg (x y : Reg)                    -- LD Vx, Vy
  | or (x y : Reg)                       -- OR Vx, Vy
  | and (x y : Reg)                      -- AND Vx, Vy
  | xor (x y : Reg)                      -- XOR Vx, Vy
  | addReg (x y : Reg)                   -- ADD Vx, Vy
  | sub (x y : Reg)                      -- SUB Vx, Vy
  | shr (x y : Reg)                      -- SHR Vx, Vy (the machine ignores y)
  | subn (x y : Reg)                     -- SUBN Vx, Vy
  | shl (x y : Reg)                      -- SHL Vx, Vy (the machine ignores y)
  | nop88 (x y : Reg)                    -- class-8 no-op, low nibble 8
  | nop89 (x y : Reg)                    -- class-8 no-op, low nibble 9
  | nop8A (x y : Reg)                    -- class-8 no-op, low nibble A
  | nop8B (x y : Reg)                    -- class-8 no-op, low nibble B
  | nop8C (x y : Reg)                    -- class-8 no-op, low nibble C
  | nop8D (x y : Reg)                    -- class-8 no-op, low nibble D
  | nop8F (x y : Reg)                    -- class-8 no-op, low nibble F
  | sneReg (x y : Reg)                   -- SNE Vx, Vy
  | ldI (nnn : Addr12)                   -- LD I, addr
  | jpV0 (nnn : Addr12)                  -- JP V0, addr
  | rnd (x : Reg) (kk : Byte)            -- RND Vx, byte
  | drw (x y : Reg) (n : Nibble)         -- DRW Vx, Vy, N
  | skp (x : Reg)                        -- SKP Vx
  | sknp (x : Reg)                       -- SKNP Vx
  | nopE (x : Reg) (kk : Byte)           -- class-E no-op
  | ldVxDt (x : Reg)                     -- LD Vx, DT
  | ldVxK (x : Reg)                      -- LD Vx, K
  | ldDt (x : Reg)                       -- LD DT, Vx
  | ldSt (x : Reg)                       -- LD ST, Vx
  | addI (x : Reg)                       -- ADD I, Vx
  | ldF (x : Reg)                        -- LD F, Vx
  | ldB (x : Reg)                        -- LD B, Vx
  | ldMem (x : Reg)                      -- LD [I], Vx
  | ldRegs (x : Reg)                     -- LD Vx, [I]
  | nopF (x : Reg) (kk : Byte)           -- class-F no-op
  deriving DecidableEq, Repr

end Sys2Proof
end

