-- ==== Sys2Proof/WellFormed.lean ====
section
/-! DEFINITION. Which instructions stand for a word of their own row. Only the three catch-all no-op rows
can be ill-formed: a class-0, class-E or class-F no-op whose low bits name another instruction
(30_encoding.md R73, R74). -/

namespace Sys2Proof

/-- The low 12 bits of a class-0 word name neither `CLS` nor `RET` under `d` (30_encoding.md R73). -/
def sysOperandOk (d : Class0Dispatch) (nnn : Addr12) : Bool :=
  match d with
  | .lowByte => nnn.setWidth 8 != 0xE0#8 && nnn.setWidth 8 != 0xEE#8
  | .fullWord => nnn != 0x0E0#12 && nnn != 0x0EE#12
  | .lowNibble => nnn.setWidth 4 != 0x0#4 && nnn.setWidth 4 != 0xE#4

/-- The low bytes of class E that name an instruction (30_encoding.md R74). -/
def classECodes : List Byte := [0x9E, 0xA1]

/-- The low bytes of class F that name an instruction (30_encoding.md R74). -/
def classFCodes : List Byte := [0x07, 0x0A, 0x15, 0x18, 0x1E, 0x29, 0x33, 0x55, 0x65]

/-- Under CLASS0_DISPATCH = `d`, the instruction is the one its own word decodes to. -/
def Instr.wellFormed (d : Class0Dispatch) : Instr → Bool
  | .cls => true
  | .ret => true
  | .sys nnn => sysOperandOk d nnn
  | .jp _ => true
  | .call _ => true
  | .seByte _ _ => true
  | .sneByte _ _ => true
  | .seReg _ _ => true
  | .ldByte _ _ => true
  | .addByte _ _ => true
  | .ldReg _ _ => true
  | .or _ _ => true
  | .and _ _ => true
  | .xor _ _ => true
  | .addReg _ _ => true
  | .sub _ _ => true
  | .shr _ _ => true
  | .subn _ _ => true
  | .shl _ _ => true
  | .nop88 _ _ => true
  | .nop89 _ _ => true
  | .nop8A _ _ => true
  | .nop8B _ _ => true
  | .nop8C _ _ => true
  | .nop8D _ _ => true
  | .nop8F _ _ => true
  | .sneReg _ _ => true
  | .ldI _ => true
  | .jpV0 _ => true
  | .rnd _ _ => true
  | .drw _ _ _ => true
  | .skp _ => true
  | .sknp _ => true
  | .nopE _ kk => !classECodes.contains kk
  | .ldVxDt _ => true
  | .ldVxK _ => true
  | .ldDt _ => true
  | .ldSt _ => true
  | .addI _ => true
  | .ldF _ => true
  | .ldB _ => true
  | .ldMem _ => true
  | .ldRegs _ => true
  | .nopF _ kk => !classFCodes.contains kk

end Sys2Proof
end

