-- ==== Sys2Proof/Decode.lean ====
section
/-! DEFINITION. The decoder of 30_encoding.md R79, total on every 16-bit word and every list of bytes, and
the encoder written from the same map (R69). Hex values as the spec has them (log entry 5). -/

namespace Sys2Proof

/-! ## Fields of a word (30_encoding.md R66) -/

/-- The class, `w[15:12]`. -/
def fieldClass (w : Word) : Nibble := w.extractLsb' 12 4

/-- `X = w[11:8]`. -/
def fieldX (w : Word) : Reg := (w.extractLsb' 8 4).toFin

/-- `Y = w[7:4]`. -/
def fieldY (w : Word) : Reg := (w.extractLsb' 4 4).toFin

/-- `N = w[3:0]`. -/
def fieldN (w : Word) : Nibble := w.extractLsb' 0 4

/-- `KK = w[7:0]`. -/
def fieldKK (w : Word) : Byte := w.extractLsb' 0 8

/-- `NNN = w[11:0]`. -/
def fieldNNN (w : Word) : Addr12 := w.extractLsb' 0 12

/-! ## Decoding -/

/-- The class-0 words that are `CLS` under CLASS0_DISPATCH = `d` (30_encoding.md R73). -/
def isCls (d : Class0Dispatch) (w : Word) : Bool :=
  match d with
  | .lowByte => fieldKK w == 0xE0#8
  | .fullWord => fieldNNN w == 0x0E0#12
  | .lowNibble => fieldN w == 0x0#4

/-- The class-0 words that are `RET` under CLASS0_DISPATCH = `d` (30_encoding.md R73). -/
def isRet (d : Class0Dispatch) (w : Word) : Bool :=
  match d with
  | .lowByte => fieldKK w == 0xEE#8
  | .fullWord => fieldNNN w == 0x0EE#12
  | .lowNibble => fieldN w == 0xE#4

/-- Class 0 (30_encoding.md R73). -/
def decodeClass0 (d : Class0Dispatch) (w : Word) : Instr :=
  if isCls d w then .cls else if isRet d w then .ret else .sys (fieldNNN w)

/-- Class 8 selects on the low nibble (30_encoding.md R72). -/
def decodeClass8 (x y : Reg) (n : Nibble) : Instr :=
  match n.toNat with
  | 0x0 => .ldReg x y
  | 0x1 => .or x y
  | 0x2 => .and x y
  | 0x3 => .xor x y
  | 0x4 => .addReg x y
  | 0x5 => .sub x y
  | 0x6 => .shr x y
  | 0x7 => .subn x y
  | 0x8 => .nop88 x y
  | 0x9 => .nop89 x y
  | 0xA => .nop8A x y
  | 0xB => .nop8B x y
  | 0xC => .nop8C x y
  | 0xD => .nop8D x y
  | 0xE => .shl x y
  | _ => .nop8F x y

/-- Class E selects on the low byte (30_encoding.md R68, R74). -/
def decodeClassE (x : Reg) (kk : Byte) : Instr :=
  match kk.toNat with
  | 0x9E => .skp x
  | 0xA1 => .sknp x
  | _ => .nopE x kk

/-- Class F selects on the low byte (30_encoding.md R68, R74). -/
def decodeClassF (x : Reg) (kk : Byte) : Instr :=
  match kk.toNat with
  | 0x07 => .ldVxDt x
  | 0x0A => .ldVxK x
  | 0x15 => .ldDt x
  | 0x18 => .ldSt x
  | 0x1E => .addI x
  | 0x29 => .ldF x
  | 0x33 => .ldB x
  | 0x55 => .ldMem x
  | 0x65 => .ldRegs x
  | _ => .nopF x kk

/-- The decoder of 30_encoding.md R79 under CLASS0_DISPATCH = `d`. -/
def decodeWith (d : Class0Dispatch) (w : Word) : Instr :=
  match (fieldClass w).toNat with
  | 0x0 => decodeClass0 d w
  | 0x1 => .jp (fieldNNN w)
  | 0x2 => .call (fieldNNN w)
  | 0x3 => .seByte (fieldX w) (fieldKK w)
  | 0x4 => .sneByte (fieldX w) (fieldKK w)
  | 0x5 => .seReg (fieldX w) (fieldY w)
  | 0x6 => .ldByte (fieldX w) (fieldKK w)
  | 0x7 => .addByte (fieldX w) (fieldKK w)
  | 0x8 => decodeClass8 (fieldX w) (fieldY w) (fieldN w)
  | 0x9 => .sneReg (fieldX w) (fieldY w)
  | 0xA => .ldI (fieldNNN w)
  | 0xB => .jpV0 (fieldNNN w)
  | 0xC => .rnd (fieldX w) (fieldKK w)
  | 0xD => .drw (fieldX w) (fieldY w) (fieldN w)
  | 0xE => decodeClassE (fieldX w) (fieldKK w)
  | _ => decodeClassF (fieldX w) (fieldKK w)

/-- The value the spec gives CLASS0_DISPATCH, LOW_BYTE (00_scope.md R7). UNVERIFIED, log entry 4. -/
def Config.class0Dispatch : Class0Dispatch := .lowByte

/-- The decoder of this machine: CLASS0_DISPATCH at the spec's value (00_scope.md R7). -/
def decode (w : Word) : Instr := decodeWith Config.class0Dispatch w

/-- The big-endian word of two bytes, the one at the lower address first (20_memory.md R49). -/
def wordOfBytes (hi lo : Byte) : Word := hi ++ lo

/-- Why a list of bytes holds no instruction. -/
inductive DecodeError where
  /-- Fewer than the two bytes of an instruction word (30_encoding.md R65); safe, the fetch check of
  20_memory.md R48 keeps a step from meeting it. -/
  | truncated
  deriving DecidableEq, Repr

/-- Decoding any bytes: the first instruction and the bytes after it. No word is refused
(30_encoding.md R75); only a missing byte is. -/
def decodeBytes : List Byte → Except DecodeError (Instr × List Byte)
  | hi :: lo :: rest => .ok (decode (wordOfBytes hi lo), rest)
  | _ => .error .truncated

/-! ## Encoding -/

/-- Format A: class and address (30_encoding.md R66). -/
def wordA (c : Nibble) (nnn : Addr12) : Word := c ++ nnn

/-- Formats XK and X: class, register, low byte (30_encoding.md R66). -/
def wordXK (c : Nibble) (x : Reg) (kk : Byte) : Word := c ++ BitVec.ofFin (w := 4) x ++ kk

/-- Formats XY and XYN: class, two registers, low nibble (30_encoding.md R66). -/
def wordXYN (c : Nibble) (x y : Reg) (n : Nibble) : Word := c ++ BitVec.ofFin (w := 4) x ++ BitVec.ofFin (w := 4) y ++ n

/-- The word of an instruction (30_encoding.md R69); bits the row ignores and the instruction does not
carry are written 0. -/
def encode : Instr → Word
  | .cls => 0x00E0
  | .ret => 0x00EE
  | .sys nnn => wordA 0x0 nnn
  | .jp nnn => wordA 0x1 nnn
  | .call nnn => wordA 0x2 nnn
  | .seByte x kk => wordXK 0x3 x kk
  | .sneByte x kk => wordXK 0x4 x kk
  | .seReg x y => wordXYN 0x5 x y 0x0
  | .ldByte x kk => wordXK 0x6 x kk
  | .addByte x kk => wordXK 0x7 x kk
  | .ldReg x y => wordXYN 0x8 x y 0x0
  | .or x y => wordXYN 0x8 x y 0x1
  | .and x y => wordXYN 0x8 x y 0x2
  | .xor x y => wordXYN 0x8 x y 0x3
  | .addReg x y => wordXYN 0x8 x y 0x4
  | .sub x y => wordXYN 0x8 x y 0x5
  | .shr x y => wordXYN 0x8 x y 0x6
  | .subn x y => wordXYN 0x8 x y 0x7
  | .shl x y => wordXYN 0x8 x y 0xE
  | .nop88 x y => wordXYN 0x8 x y 0x8
  | .nop89 x y => wordXYN 0x8 x y 0x9
  | .nop8A x y => wordXYN 0x8 x y 0xA
  | .nop8B x y => wordXYN 0x8 x y 0xB
  | .nop8C x y => wordXYN 0x8 x y 0xC
  | .nop8D x y => wordXYN 0x8 x y 0xD
  | .nop8F x y => wordXYN 0x8 x y 0xF
  | .sneReg x y => wordXYN 0x9 x y 0x0
  | .ldI nnn => wordA 0xA nnn
  | .jpV0 nnn => wordA 0xB nnn
  | .rnd x kk => wordXK 0xC x kk
  | .drw x y n => wordXYN 0xD x y n
  | .skp x => wordXK 0xE x 0x9E
  | .sknp x => wordXK 0xE x 0xA1
  | .nopE x kk => wordXK 0xE x kk
  | .ldVxDt x => wordXK 0xF x 0x07
  | .ldVxK x => wordXK 0xF x 0x0A
  | .ldDt x => wordXK 0xF x 0x15
  | .ldSt x => wordXK 0xF x 0x18
  | .addI x => wordXK 0xF x 0x1E
  | .ldF x => wordXK 0xF x 0x29
  | .ldB x => wordXK 0xF x 0x33
  | .ldMem x => wordXK 0xF x 0x55
  | .ldRegs x => wordXK 0xF x 0x65
  | .nopF x kk => wordXK 0xF x kk

/-- The two bytes of a word in memory order, high byte first (20_memory.md R49). -/
def bytesOfWord (w : Word) : List Byte := [w.extractLsb' 8 8, w.extractLsb' 0 8]

/-! ## The opcode table's words, as the host numbers them -/

/-- The instruction word of `nbits` table bits `w` (bit 0 the least significant), the bits above them 0. -/
def tableWord (nbits w : Nat) : Word := BitVec.ofNat 16 (w % 2 ^ nbits)

/-- What the decoder reads from the bytes of that word, laid out as the hardware stores them. -/
def decodeTableWord (nbits w : Nat) : Option Instr :=
  match decodeBytes (bytesOfWord (tableWord nbits w)) with
  | .ok (i, _) => some i
  | .error _ => none

/-! ## The rows of spec/opcode_table.json -/

/-- A row's `match` and `mask`: a word is the row's only if `w &&& mask = pattern`. -/
structure Row where
  pattern : Word
  mask : Word
  deriving DecidableEq, Repr

/-- The row each constructor stands for, as the table prints it (CLASS0_DISPATCH = LOW_BYTE). -/
def Instr.row : Instr → Row
  | .cls => ⟨0x00E0, 0xF0FF⟩
  | .ret => ⟨0x00EE, 0xF0FF⟩
  | .sys _ => ⟨0x0000, 0xF000⟩
  | .jp _ => ⟨0x1000, 0xF000⟩
  | .call _ => ⟨0x2000, 0xF000⟩
  | .seByte _ _ => ⟨0x3000, 0xF000⟩
  | .sneByte _ _ => ⟨0x4000, 0xF000⟩
  | .seReg _ _ => ⟨0x5000, 0xF000⟩
  | .ldByte _ _ => ⟨0x6000, 0xF000⟩
  | .addByte _ _ => ⟨0x7000, 0xF000⟩
  | .ldReg _ _ => ⟨0x8000, 0xF00F⟩
  | .or _ _ => ⟨0x8001, 0xF00F⟩
  | .and _ _ => ⟨0x8002, 0xF00F⟩
  | .xor _ _ => ⟨0x8003, 0xF00F⟩
  | .addReg _ _ => ⟨0x8004, 0xF00F⟩
  | .sub _ _ => ⟨0x8005, 0xF00F⟩
  | .shr _ _ => ⟨0x8006, 0xF00F⟩
  | .subn _ _ => ⟨0x8007, 0xF00F⟩
  | .shl _ _ => ⟨0x800E, 0xF00F⟩
  | .nop88 _ _ => ⟨0x8008, 0xF00F⟩
  | .nop89 _ _ => ⟨0x8009, 0xF00F⟩
  | .nop8A _ _ => ⟨0x800A, 0xF00F⟩
  | .nop8B _ _ => ⟨0x800B, 0xF00F⟩
  | .nop8C _ _ => ⟨0x800C, 0xF00F⟩
  | .nop8D _ _ => ⟨0x800D, 0xF00F⟩
  | .nop8F _ _ => ⟨0x800F, 0xF00F⟩
  | .sneReg _ _ => ⟨0x9000, 0xF000⟩
  | .ldI _ => ⟨0xA000, 0xF000⟩
  | .jpV0 _ => ⟨0xB000, 0xF000⟩
  | .rnd _ _ => ⟨0xC000, 0xF000⟩
  | .drw _ _ _ => ⟨0xD000, 0xF000⟩
  | .skp _ => ⟨0xE09E, 0xF0FF⟩
  | .sknp _ => ⟨0xE0A1, 0xF0FF⟩
  | .nopE _ _ => ⟨0xE000, 0xF000⟩
  | .ldVxDt _ => ⟨0xF007, 0xF0FF⟩
  | .ldVxK _ => ⟨0xF00A, 0xF0FF⟩
  | .ldDt _ => ⟨0xF015, 0xF0FF⟩
  | .ldSt _ => ⟨0xF018, 0xF0FF⟩
  | .addI _ => ⟨0xF01E, 0xF0FF⟩
  | .ldF _ => ⟨0xF029, 0xF0FF⟩
  | .ldB _ => ⟨0xF033, 0xF0FF⟩
  | .ldMem _ => ⟨0xF055, 0xF0FF⟩
  | .ldRegs _ => ⟨0xF065, 0xF0FF⟩
  | .nopF _ _ => ⟨0xF000, 0xF000⟩

end Sys2Proof
end

