-- ==== Sys2Proof/Machine/State.lean ====
section
/-! DEFINITION. The state of CORE as plain data (10_state.md R41), the reasons a step could stop, and the
state right after `reset` (10_state.md R42, 70_reset_and_hazards.md R167). -/

namespace Sys2Proof.Machine

/-- Memory: the cells that differ from the machine's reset contents, by strictly rising address
(20_memory.md R45; the canonical form is `Memory.wf` of Machine/Ops.lean; log entry 6). -/
abbrev Memory := List Host.Cell

/-- The display buffer: 64 columns of 32 pixels, so that `disp[x][y]` is `DISP[x][y]`
(10_state.md R32, 44_display.md R129). -/
abbrev Display := Vector (Vector Bool 32) 64

/-- STATUS (10_state.md R38). -/
inductive Status where
  | run
  | halted
  deriving DecidableEq, Repr

/-- The fatal causes CAUSE can hold (60_exceptions.md R153); codes 5 to 7 are never produced
(log entry 15). -/
inductive Cause where
  | none
  | stackOverflow
  | stackUnderflow
  | pcOutOfRange
  | dataAddrOutOfRange
  deriving DecidableEq, Repr

/-- Reasons a step stops without a next state. There is none: every fatal condition of the spec has an
entry it describes (60_exceptions.md R154) and is a NEXT state with STATUS = HALTED (log entry 2). Safe. -/
inductive Fault where
  deriving DecidableEq, Repr

/-- How the host's next command breaks the boot order it owes CORE (70_reset_and_hazards.md R175). -/
inductive BootBreach where
  /-- A command other than `reset` before the first `reset` (00_scope.md R11, 10_state.md R43). -/
  | beforeReset
  /-- A second `load` after one `reset` (70_reset_and_hazards.md R175). -/
  | loadRepeated
  /-- A `load` after a `step` (70_reset_and_hazards.md R175). -/
  | loadAfterStep
  /-- A `step` before the `load` (70_reset_and_hazards.md R175, R176). -/
  | stepBeforeLoad
  /-- A `step` after a `load` that was too large (70_reset_and_hazards.md R173). -/
  | stepAfterFailedLoad
  deriving DecidableEq, Repr

/-- Reasons for an instruction without a meaning, and for a command outside the spec. -/
inductive Refusal where
  /-- Raised by an arm of `exec` whose instruction has no meaning yet. Safe; no arm raises it now. -/
  | notModelled (mnemonic : String)
  /-- Raised by `issue` of Machine/Commands.lean for a command outside the boot order, never by an instruction
  or by `step`. Safe; log entry 10. -/
  | hostOutOfOrder (breach : BootBreach)
  deriving DecidableEq, Repr

/-- The state of CORE; the last three fields are the model's own: the machine's parameter FONT (log entry 3)
and the free random byte (log entry 1). -/
structure State where
  /-- Memory, 4096 cells of 8 bits (10_state.md R30). -/
  mem : Memory
  /-- The general registers `V[0]`..`V[15]`; `V[15]` is VF (10_state.md R20, R21). -/
  v : Vector Byte 16
  /-- The index register I (10_state.md R23). -/
  i : Word
  /-- The program counter (10_state.md R24). -/
  pc : Word
  /-- The stack pointer, the number of return addresses held, 0..16 (10_state.md R27). -/
  sp : Fin 17
  /-- The stack entries (10_state.md R28). -/
  stack : Vector Word 16
  /-- The delay timer (10_state.md R29). -/
  dt : Byte
  /-- The sound timer (10_state.md R29). -/
  st : Byte
  /-- The display buffer (10_state.md R32). -/
  disp : Display
  /-- The key latch (10_state.md R34). -/
  key : Vector Bool 16
  /-- REDRAW (10_state.md R36). -/
  redraw : Bool
  /-- BEEP (10_state.md R37). -/
  beep : Bool
  /-- STATUS (10_state.md R38). -/
  status : Status
  /-- CAUSE (10_state.md R38). -/
  cause : Cause
  /-- The machine's table FONT (00_scope.md R6): a parameter, which no step and no command changes. -/
  font : Font
  /-- The random byte the current `step(rnd)` carries (00_scope.md R8). -/
  rnd : Byte
  /-- How many running steps have been taken: selects the next byte of `Config.rnd`. -/
  rndIdx : Nat
  deriving DecidableEq, Repr

/-- The state right after `reset` of a machine whose table FONT is `f` (10_state.md R42); `rnd` and `rndIdx` are
DESIGN CHOICE (log entry 1). -/
def State.resetWith (f : Font) : State where
  mem := []
  v := Vector.replicate 16 0
  i := 0
  pc := 0x200
  sp := 0
  stack := Vector.replicate 16 0
  dt := 0
  st := 0
  disp := Vector.replicate 64 (Vector.replicate 32 false)
  key := Vector.replicate 16 false
  redraw := true
  beep := false
  status := .run
  cause := .none
  font := f
  rnd := 0
  rndIdx := 0

/-- The state right after `reset` of a machine with the default table (00_scope.md R6; log entry 3). -/
def State.reset : State := State.resetWith defaultFont

end Sys2Proof.Machine
end

