-- ==== Sys2Proof/Machine/Ops.lean ====
section
/-! DEFINITION. The named operations over memory, registers, the call stack, the display, the key latch, the
timers and the step outputs (the primitives of 00_scope.md R14), with the one entry into a fatal condition
(60_exceptions.md R154). There is no return from one: only `reset` leaves HALTED (R156). -/

namespace Sys2Proof.Machine

/-! ## Memory -/

/-- What a cell nothing has written holds under the table `f`: the reset contents, FONT below 80 and 0 above
(10_state.md R30, R42). -/
def Memory.initial (f : Font) (a : Nat) : Byte :=
  if h : a < 80 then f[a] else 0

/-- `MemRead(a, 1)`: the cell at `a` (20_memory.md R52). -/
def Memory.read (f : Font) : Memory → Nat → Byte
  | [], a => Memory.initial f a
  | (b, w) :: rest, a => if a = b then w else Memory.read f rest a

/-- The cell at `a` set to `v`, in canonical form. -/
def Memory.put (f : Font) : Memory → Nat → Byte → Memory
  | [], a, v => if v = Memory.initial f a then [] else [(a, v)]
  | (b, w) :: rest, a, v =>
    if a < b then
      if v = Memory.initial f a then (b, w) :: rest else (a, v) :: (b, w) :: rest
    else if a = b then
      if v = Memory.initial f a then rest else (a, v) :: rest
    else (b, w) :: Memory.put f rest a v

/-- `MemWrite(a, 1, v)` (20_memory.md R53). An address of 4096 or more selects nothing (R46); every
instruction has made its range check before it writes (log entry 13). -/
def Memory.write (f : Font) (m : Memory) (a : Nat) (v : Byte) : Memory :=
  if a < Config.memSize then Memory.put f m a v else m

/-- Bytes written to consecutive addresses from `a` up. -/
def Memory.writeBytes (f : Font) : Memory → Nat → List Byte → Memory
  | m, _, [] => m
  | m, a, b :: rest => Memory.writeBytes f (Memory.write f m a b) (a + 1) rest

/-- Every address of `m` is at least `lo` and below 4096, the addresses rise strictly, and no cell holds
its reset value. -/
def Memory.wfFrom (f : Font) : Nat → Memory → Bool
  | _, [] => true
  | lo, (b, w) :: rest =>
    decide (lo ≤ b) && decide (b < Config.memSize) && decide (w ≠ Memory.initial f b) &&
      Memory.wfFrom f (b + 1) rest

/-- The canonical form of memory under the table `f`. -/
def Memory.wf (f : Font) (m : Memory) : Bool := Memory.wfFrom f 0 m

/-- The machine's memory is in canonical form. -/
def State.memWf (s : State) : Bool := s.mem.wf s.font

/-- One byte read from the machine's memory (20_memory.md R52). -/
def State.readByte (s : State) (a : Nat) : Byte := s.mem.read s.font a

/-- One byte stored in the machine's memory (20_memory.md R53). -/
def State.writeByte (s : State) (a : Nat) (b : Byte) : State := { s with mem := s.mem.write s.font a b }

/-- Bytes stored from `a` up. -/
def State.writeBytes (s : State) (a : Nat) (bs : List Byte) : State :=
  { s with mem := s.mem.writeBytes s.font a bs }

/-! ## Registers -/

/-- `V[x]` (00_scope.md R14). -/
def State.reg (s : State) (x : Reg) : Byte := s.v[x]

/-- `V[x] <- b` (00_scope.md R14). -/
def State.setReg (s : State) (x : Reg) (b : Byte) : State := { s with v := s.v.set x b }

/-- `I <- w` (00_scope.md R14). -/
def State.setI (s : State) (w : Word) : State := { s with i := w }

/-- `pc <- target` (00_scope.md R14). -/
def State.setPc (s : State) (target : Word) : State := { s with pc := target }

/-- Advance by `k`: `pc <- PC + k` (00_scope.md §7, 40_cycle.md R86). No running step wraps PC
(10_state.md R25; log entry 7). -/
def State.advance (s : State) (k : Word) : State := { s with pc := s.pc + k }

/-- A skip: advance by 4 if the condition holds, else by 2 (40_cycle.md R86). -/
def State.skipIf (s : State) (cond : Bool) : State := s.advance (if cond then 4 else 2)

/-- The block moved by `LD Vx, [I]`: `V[k] <- MemRead(base + k, 1)` for the first `count` registers, in
rising order (43_index_memory.md R126). -/
def State.loadRegs (base : Nat) : Nat → State → State
  | 0, s => s
  | k + 1, s =>
    let s' := State.loadRegs base k s
    s'.setReg (Fin.ofNat 16 k) (s'.readByte (base + k))

/-- The block moved by `LD [I], Vx`: `MemWrite(base + k, 1, V[k])` for the first `count` registers, in
rising order (43_index_memory.md R125). -/
def State.storeRegs (base : Nat) : Nat → State → State
  | 0, s => s
  | k + 1, s =>
    let s' := State.storeRegs base k s
    s'.writeByte (base + k) (s'.reg (Fin.ofNat 16 k))

/-! ## Fatal conditions -/

/-- `raise Fatal(cause)`: `STATUS <- HALTED`, `CAUSE <- cause`, every other element kept
(60_exceptions.md R154). -/
def State.raiseFatal (s : State) (c : Cause) : State := { s with status := .halted, cause := c }

/-- The number of a cause (60_exceptions.md R153; log entry 15). -/
def Cause.code : Cause → BitVec 3
  | .none => 0
  | .stackOverflow => 1
  | .stackUnderflow => 2
  | .pcOutOfRange => 3
  | .dataAddrOutOfRange => 4

/-! ## The call stack -/

/-- Push PC: `STACK[SP] <- PC`, `SP <- SP + 1` (41_control.md R96). Meant for `SP < 16`. -/
def State.pushPc (s : State) (h : s.sp.val < 16) : State :=
  { s with stack := s.stack.set s.sp.val s.pc, sp := ⟨s.sp.val + 1, by omega⟩ }

/-- Pop: `SP <- SP - 1`, `pc <- STACK[SP] + 2` (41_control.md R94). Meant for `SP > 0`; the entry is not
cleared (10_state.md R28). -/
def State.popPc (s : State) (h : 0 < s.sp.val) : State :=
  { s with sp := ⟨s.sp.val - 1, by omega⟩, pc := s.stack[s.sp.val - 1]'(by omega) + 2 }

/-! ## The display -/

/-- `DISP[x][y]` (44_display.md R129). -/
def Display.pixel (d : Display) (x : Fin 64) (y : Fin 32) : Bool := d[x][y]

/-- `DISP[x][y] <- DISP[x][y] ^ 1` (44_display.md R131). -/
def Display.flip (d : Display) (x : Fin 64) (y : Fin 32) : Display :=
  d.set x (d[x].set y (!d[x][y]))

/-- Every pixel 0 (44_display.md R130). -/
def Display.blank : Display := Vector.replicate 64 (Vector.replicate 32 false)

/-- Column offset `c` of a sprite row takes bit `7 - c` (44_display.md R132). UNVERIFIED, log entry 14. -/
def spriteBit (b : Byte) (c : Nat) : Bool := b.getLsbD (7 - c)

/-- The column of offset `c` from `x0`, wrapped (44_display.md R135). -/
def drawColumn (x0 : Byte) (c : Nat) : Fin 64 := Fin.ofNat 64 (x0.toNat + c)

/-- The row of offset `r` from `y0`, wrapped (44_display.md R135). -/
def drawLine (y0 : Byte) (r : Nat) : Fin 32 := Fin.ofNat 32 (y0.toNat + r)

/-- The body of the inner loop of `DRW` at row offset `r` and column offset `c`: the display and the
collision bit so far (44_display.md R131). -/
def drawBit (x0 y0 b : Byte) (r c : Nat) (acc : Display × Bool) : Display × Bool :=
  if spriteBit b c then
    (acc.1.flip (drawColumn x0 c) (drawLine y0 r),
      acc.2 || acc.1.pixel (drawColumn x0 c) (drawLine y0 r))
  else acc

/-- The first `count` columns of one sprite row, left to right (44_display.md R131). -/
def drawRow (x0 y0 b : Byte) (r : Nat) : Nat → Display × Bool → Display × Bool
  | 0, acc => acc
  | c + 1, acc => drawBit x0 y0 b r c (drawRow x0 y0 b r c acc)

/-- The first `count` rows of the sprite at `base`, read by `readByte`, top to bottom (44_display.md R131). -/
def drawRows (readByte : Nat → Byte) (base : Nat) (x0 y0 : Byte) : Nat → Display × Bool → Display × Bool
  | 0, acc => acc
  | r + 1, acc => drawRow x0 y0 (readByte (base + r)) r 8 (drawRows readByte base x0 y0 r acc)

/-- The display replaced. -/
def State.setDisp (s : State) (d : Display) : State := { s with disp := d }

/-- `REDRAW <- 1` (10_state.md R36). -/
def State.markRedraw (s : State) : State := { s with redraw := true }

/-! ## The key latch -/

/-- `KEY[k] = 1` (10_state.md R34). -/
def State.keyDown (s : State) (k : Reg) : Bool := s.key[k]

/-- The scan of `LD Vx, K`: the first pressed key in index order 0..15 (45_input.md R143). -/
def State.firstKey (s : State) : Option Reg := (List.finRange 16).find? s.keyDown

/-! ## The timers and the step outputs -/

/-- `DT <- b`. -/
def State.setDt (s : State) (b : Byte) : State := { s with dt := b }

/-- `ST <- b`. -/
def State.setSt (s : State) (b : Byte) : State := { s with st := b }

/-- A timer decremented while nonzero (46_timers.md R144). -/
def decTimer (t : Byte) : Byte := if t = 0 then 0 else t - 1

/-- The tick (46_timers.md R147). -/
def State.tick (s : State) : State :=
  { s with
    dt := decTimer s.dt
    st := decTimer s.st
    beep := if s.st = 1 then true else s.beep }

/-- The start of a running `step(rnd)`: REDRAW and BEEP cleared (40_cycle.md R82), the step's random byte
taken in (00_scope.md R8), the model's step counter advanced. -/
def State.beginStep (s : State) (rnd : Byte) : State :=
  { s with redraw := false, beep := false, rnd := rnd, rndIdx := s.rndIdx + 1 }

/-- The end of a running step: the tick, but not after a fatal condition (40_cycle.md R88). -/
def State.endStep (s : State) : State :=
  match s.status with
  | .run => s.tick
  | .halted => s

end Sys2Proof.Machine
end

