-- ==== Sys2Proof/Machine/Flags.lean ====
section
/-! DEFINITION. The flag outputs written to VF (10_state.md R21) and the one shape of a flag-writing ALU
operation (42_alu.md R106). -/

namespace Sys2Proof.Machine

/-- A flag as the byte VF receives: 1 or 0. -/
def flagByte (b : Bool) : Byte := if b then 1 else 0

/-- The exact sum, 0..510 (42_alu.md R113). -/
def exactSum (a b : Byte) : Nat := a.toNat + b.toNat

/-- Carry of `ADD Vx, Vy`: 1 iff the exact sum is above 255 (42_alu.md R113). -/
def carryFlag (a b : Byte) : Byte := flagByte (decide (255 < exactSum a b))

/-- The sum reduced modulo 256 (42_alu.md R105). -/
def wrapSum (a b : Byte) : Byte := BitVec.ofNat 8 (exactSum a b % 256)

/-- NOT borrow of `a - b`: 1 iff `a >= b` (42_alu.md R114, R116). -/
def noBorrowFlag (a b : Byte) : Byte := flagByte (decide (b.toNat ≤ a.toNat))

/-- The difference reduced modulo 256 (42_alu.md R114). -/
def wrapDiff (a b : Byte) : Byte := BitVec.ofNat 8 ((a.toNat + 256 - b.toNat) % 256)

/-- The bit a right shift puts out, bit 0 (42_alu.md R115). -/
def shrFlag (a : Byte) : Byte := flagByte (a.getLsbD 0)

/-- The bit a left shift puts out, bit 7 (42_alu.md R117). -/
def shlFlag (a : Byte) : Byte := flagByte (a.getLsbD 7)

/-- A flag-writing operation: the result to `V[x]`, then the flag to VF, so that the flag is what VF holds
when x is VF (42_alu.md R106). Both are computed by the caller from the values before any write. -/
def State.writeResultFlag (s : State) (x : Reg) (result flag : Byte) : State :=
  (s.setReg x result).setReg vf flag

end Sys2Proof.Machine
end

