-- ==== Sys2Proof/Machine/Alu.lean ====
section
/-! DEFINITION. The ALU: immediate, register and random operations (42_alu.md). Operands are read before
anything is written (R105). -/

namespace Sys2Proof.Machine

/-- `LD Vx, byte` (42_alu.md R107). -/
def execLdByte (x : Reg) (kk : Byte) (s : State) : Host.Outcome State Fault Refusal :=
  .next ((s.setReg x kk).advance 2)

/-- `ADD Vx, byte` (42_alu.md R108). -/
def execAddByte (x : Reg) (kk : Byte) (s : State) : Host.Outcome State Fault Refusal :=
  .next ((s.setReg x (wrapSum (s.reg x) kk)).advance 2)

/-- `LD Vx, Vy` (42_alu.md R109). -/
def execLdReg (x y : Reg) (s : State) : Host.Outcome State Fault Refusal :=
  .next ((s.setReg x (s.reg y)).advance 2)

/-- `OR Vx, Vy` (42_alu.md R110). -/
def execOr (x y : Reg) (s : State) : Host.Outcome State Fault Refusal :=
  .next ((s.setReg x (s.reg x ||| s.reg y)).advance 2)

/-- `AND Vx, Vy` (42_alu.md R111). -/
def execAnd (x y : Reg) (s : State) : Host.Outcome State Fault Refusal :=
  .next ((s.setReg x (s.reg x &&& s.reg y)).advance 2)

/-- `XOR Vx, Vy` (42_alu.md R112). -/
def execXor (x y : Reg) (s : State) : Host.Outcome State Fault Refusal :=
  .next ((s.setReg x (s.reg x ^^^ s.reg y)).advance 2)

/-- `ADD Vx, Vy` (42_alu.md R113). -/
def execAddReg (x y : Reg) (s : State) : Host.Outcome State Fault Refusal :=
  .next ((s.writeResultFlag x (wrapSum (s.reg x) (s.reg y)) (carryFlag (s.reg x) (s.reg y))).advance 2)

/-- `SUB Vx, Vy` (42_alu.md R114). -/
def execSub (x y : Reg) (s : State) : Host.Outcome State Fault Refusal :=
  .next ((s.writeResultFlag x (wrapDiff (s.reg x) (s.reg y)) (noBorrowFlag (s.reg x) (s.reg y))).advance 2)

/-- `SHR Vx` (42_alu.md R115); Y is ignored. -/
def execShr (x _y : Reg) (s : State) : Host.Outcome State Fault Refusal :=
  .next ((s.writeResultFlag x (s.reg x >>> 1) (shrFlag (s.reg x))).advance 2)

/-- `SUBN Vx, Vy` (42_alu.md R116). -/
def execSubn (x y : Reg) (s : State) : Host.Outcome State Fault Refusal :=
  .next ((s.writeResultFlag x (wrapDiff (s.reg y) (s.reg x)) (noBorrowFlag (s.reg y) (s.reg x))).advance 2)

/-- `SHL Vx` (42_alu.md R117); Y is ignored. -/
def execShl (x _y : Reg) (s : State) : Host.Outcome State Fault Refusal :=
  .next ((s.writeResultFlag x (s.reg x <<< 1) (shlFlag (s.reg x))).advance 2)

/-- `RND Vx, byte`: the step's random byte AND KK (42_alu.md R119). -/
def execRnd (x : Reg) (kk : Byte) (s : State) : Host.Outcome State Fault Refusal :=
  .next ((s.setReg x (s.rnd &&& kk)).advance 2)

end Sys2Proof.Machine
end

