-- ==== Sys2Proof/Machine/Operands.lean ====
section
/-! DEFINITION. The operand forms (30_encoding.md R67) and the one addressing mode, the index register plus
a small constant offset (20_memory.md R63), with its range check (R47). -/

namespace Sys2Proof.Machine

/-- `zext_16(NNN)` (30_encoding.md R67). -/
def zextAddr (nnn : Addr12) : Word := nnn.setWidth 16

/-- The target of `JP V0, addr`: `zext_16(NNN) + V[0]` (41_control.md R101). -/
def indexedTarget (s : State) (nnn : Addr12) : Word := zextAddr nnn + (s.reg 0).setWidth 16

/-- The data address `I + k`, an exact natural number (20_memory.md R63). -/
def dataAddr (s : State) (k : Nat) : Nat := s.i.toNat + k

/-- The key a register selects: its low nibble (45_input.md R139). -/
def keyIndex (b : Byte) : Reg := Fin.ofNat 16 (b.toNat % 16)

/-- The font-glyph address of a register's low nibble: `5 * (V[X] & 0xF)` (43_index_memory.md R123). -/
def glyphAddr (b : Byte) : Word := BitVec.ofNat 16 (5 * (b &&& 0xF).toNat)

/-- The decimal digits of a byte, hundreds first (43_index_memory.md R124). -/
def decimalDigits (b : Byte) : List Byte :=
  [BitVec.ofNat 8 (b.toNat / 100), BitVec.ofNat 8 (b.toNat / 10 % 10), BitVec.ofNat 8 (b.toNat % 10)]

/-- The range check of a data instruction whose highest address is `I + kMax`: out of range it raises
DATA_ADDR_OUT_OF_RANGE and writes nothing else, in range it goes on to `body`
(20_memory.md R47, 43_index_memory.md R127). -/
def withDataRange (s : State) (kMax : Nat) (body : State) : Host.Outcome State Fault Refusal :=
  if Config.memSize ≤ dataAddr s kMax then .next (s.raiseFatal .dataAddrOutOfRange) else .next body

end Sys2Proof.Machine
end

