-- ==== Sys2Proof/Machine/Control.lean ====
section
/-! DEFINITION. Control transfer and the call-stack controller (41_control.md). PC is the instruction's own
address while it executes (40_cycle.md R87). -/

namespace Sys2Proof.Machine

/-- `SYS addr` (no-op) (41_control.md R93). -/
def execSys (_nnn : Addr12) (s : State) : Host.Outcome State Fault Refusal :=
  .next (s.advance 2)

/-- `RET` (41_control.md R94). -/
def execRet (s : State) : Host.Outcome State Fault Refusal :=
  if h : 0 < s.sp.val then .next (s.popPc h) else .next (s.raiseFatal .stackUnderflow)

/-- `JP addr` (41_control.md R95). -/
def execJp (nnn : Addr12) (s : State) : Host.Outcome State Fault Refusal :=
  .next (s.setPc (zextAddr nnn))

/-- `CALL addr` (41_control.md R96). -/
def execCall (nnn : Addr12) (s : State) : Host.Outcome State Fault Refusal :=
  if h : s.sp.val < 16 then .next ((s.pushPc h).setPc (zextAddr nnn))
  else .next (s.raiseFatal .stackOverflow)

/-- `SE Vx, byte` (41_control.md R97). -/
def execSeByte (x : Reg) (kk : Byte) (s : State) : Host.Outcome State Fault Refusal :=
  .next (s.skipIf (s.reg x == kk))

/-- `SNE Vx, byte` (41_control.md R98). -/
def execSneByte (x : Reg) (kk : Byte) (s : State) : Host.Outcome State Fault Refusal :=
  .next (s.skipIf (s.reg x != kk))

/-- `SE Vx, Vy` (41_control.md R99). -/
def execSeReg (x y : Reg) (s : State) : Host.Outcome State Fault Refusal :=
  .next (s.skipIf (s.reg x == s.reg y))

/-- `SNE Vx, Vy` (41_control.md R100). -/
def execSneReg (x y : Reg) (s : State) : Host.Outcome State Fault Refusal :=
  .next (s.skipIf (s.reg x != s.reg y))

/-- `JP V0, addr` (41_control.md R101). -/
def execJpV0 (nnn : Addr12) (s : State) : Host.Outcome State Fault Refusal :=
  .next (s.setPc (indexedTarget s nnn))

end Sys2Proof.Machine
end

