-- ==== Sys2Proof/Machine/Draw.lean ====
section
/-! DEFINITION. The display instructions, the pixel-XOR writer and the collision detector
(44_display.md). -/

namespace Sys2Proof.Machine

/-- `CLS` (44_display.md R130). -/
def execCls (s : State) : Host.Outcome State Fault Refusal :=
  .next ((s.setDisp Display.blank).markRedraw.advance 2)

/-- The sprite drawn at `(V[x], V[y])`: the new display and the collision bit (44_display.md R131). The
coordinates and I are those of `s`, before any write (R135). -/
def drawSprite (s : State) (x y : Reg) (n : Nibble) : Display × Bool :=
  drawRows s.readByte (dataAddr s 0) (s.reg x) (s.reg y) n.toNat (s.disp, false)

/-- What a draw that completes writes: DISP, then VF, REDRAW and PC (44_display.md R131). -/
def State.drawn (s : State) (r : Display × Bool) : State :=
  (((s.setDisp r.1).setReg vf (flagByte r.2)).markRedraw).advance 2

/-- `DRW Vx, Vy, N` (44_display.md R131); with N = 0 there is no range check (R134). -/
def execDrw (x y : Reg) (n : Nibble) (s : State) : Host.Outcome State Fault Refusal :=
  if n.toNat = 0 then .next (s.drawn (drawSprite s x y n))
  else withDataRange s (n.toNat - 1) (s.drawn (drawSprite s x y n))

end Sys2Proof.Machine
end

