-- ==== Sys2Proof/Machine/Index.lean ====
section
/-! DEFINITION. The index register and the load and store instructions (43_index_memory.md). None but the
first three writes I (R128). -/

namespace Sys2Proof.Machine

/-- `LD I, addr` (43_index_memory.md R121). -/
def execLdI (nnn : Addr12) (s : State) : Host.Outcome State Fault Refusal :=
  .next ((s.setI (zextAddr nnn)).advance 2)

/-- `ADD I, Vx`: modulo 65536, no flag (43_index_memory.md R122). -/
def execAddI (x : Reg) (s : State) : Host.Outcome State Fault Refusal :=
  .next ((s.setI (s.i + (s.reg x).setWidth 16)).advance 2)

/-- `LD F, Vx` (43_index_memory.md R123). -/
def execLdF (x : Reg) (s : State) : Host.Outcome State Fault Refusal :=
  .next ((s.setI (glyphAddr (s.reg x))).advance 2)

/-- `LD B, Vx` (43_index_memory.md R124). -/
def execLdB (x : Reg) (s : State) : Host.Outcome State Fault Refusal :=
  withDataRange s 2 ((s.writeBytes (dataAddr s 0) (decimalDigits (s.reg x))).advance 2)

/-- `LD [I], Vx`, the register dump (43_index_memory.md R125). -/
def execLdMem (x : Reg) (s : State) : Host.Outcome State Fault Refusal :=
  withDataRange s x.val ((State.storeRegs (dataAddr s 0) (x.val + 1) s).advance 2)

/-- `LD Vx, [I]`, the register load (43_index_memory.md R126). -/
def execLdRegs (x : Reg) (s : State) : Host.Outcome State Fault Refusal :=
  withDataRange s x.val ((State.loadRegs (dataAddr s 0) (x.val + 1) s).advance 2)

end Sys2Proof.Machine
end

