-- ==== Sys2Proof/Machine/Input.lean ====
section
/-! DEFINITION. The key instructions and the blocking key wait (45_input.md). -/

namespace Sys2Proof.Machine

/-- `SKP Vx` (45_input.md R139). -/
def execSkp (x : Reg) (s : State) : Host.Outcome State Fault Refusal :=
  .next (s.skipIf (s.keyDown (keyIndex (s.reg x))))

/-- `SKNP Vx` (45_input.md R140). -/
def execSknp (x : Reg) (s : State) : Host.Outcome State Fault Refusal :=
  .next (s.skipIf (!s.keyDown (keyIndex (s.reg x))))

/-- `LD Vx, K` (45_input.md R141): the lowest pressed key, or BLOCKED with nothing changed. -/
def execLdVxK (x : Reg) (s : State) : Host.Outcome State Fault Refusal :=
  match s.firstKey with
  | some k => .next ((s.setReg x (BitVec.ofNat 8 k.val)).advance 2)
  | none => .next s

end Sys2Proof.Machine
end

