-- ==== Sys2Proof/Machine/NoOp.lean ====
section
/-! DEFINITION. The unrecognised words of classes 8, E and F: no-ops that advance PC by 2 and write nothing
else (30_encoding.md R74, 42_alu.md R118). The class-0 no-op is `execSys` of Machine/Control.lean. -/

namespace Sys2Proof.Machine

/-- Class-8 no-op, low nibble 8 (42_alu.md R118). -/
def execNop88 (_x _y : Reg) (s : State) : Host.Outcome State Fault Refusal :=
  .next (s.advance 2)

/-- Class-8 no-op, low nibble 9 (42_alu.md R118). -/
def execNop89 (_x _y : Reg) (s : State) : Host.Outcome State Fault Refusal :=
  .next (s.advance 2)

/-- Class-8 no-op, low nibble A (42_alu.md R118). -/
def execNop8A (_x _y : Reg) (s : State) : Host.Outcome State Fault Refusal :=
  .next (s.advance 2)

/-- Class-8 no-op, low nibble B (42_alu.md R118). -/
def execNop8B (_x _y : Reg) (s : State) : Host.Outcome State Fault Refusal :=
  .next (s.advance 2)

/-- Class-8 no-op, low nibble C (42_alu.md R118). -/
def execNop8C (_x _y : Reg) (s : State) : Host.Outcome State Fault Refusal :=
  .next (s.advance 2)

/-- Class-8 no-op, low nibble D (42_alu.md R118). -/
def execNop8D (_x _y : Reg) (s : State) : Host.Outcome State Fault Refusal :=
  .next (s.advance 2)

/-- Class-8 no-op, low nibble F (42_alu.md R118). -/
def execNop8F (_x _y : Reg) (s : State) : Host.Outcome State Fault Refusal :=
  .next (s.advance 2)

/-- Class-E no-op (30_encoding.md R74). -/
def execNopE (_x : Reg) (_kk : Byte) (s : State) : Host.Outcome State Fault Refusal :=
  .next (s.advance 2)

/-- Class-F no-op (30_encoding.md R74). -/
def execNopF (_x : Reg) (_kk : Byte) (s : State) : Host.Outcome State Fault Refusal :=
  .next (s.advance 2)

end Sys2Proof.Machine
end

