-- ==== Sys2Proof/Machine/Timers.lean ====
section
/-! DEFINITION. The timer instructions (46_timers.md); the tick is `State.tick` of Machine/Ops.lean. -/

namespace Sys2Proof.Machine

/-- `LD Vx, DT` (46_timers.md R145). -/
def execLdVxDt (x : Reg) (s : State) : Host.Outcome State Fault Refusal :=
  .next ((s.setReg x s.dt).advance 2)

/-- `LD DT, Vx` (46_timers.md R146). -/
def execLdDt (x : Reg) (s : State) : Host.Outcome State Fault Refusal :=
  .next ((s.setDt (s.reg x)).advance 2)

/-- `LD ST, Vx` (46_timers.md R148). -/
def execLdSt (x : Reg) (s : State) : Host.Outcome State Fault Refusal :=
  .next ((s.setSt (s.reg x)).advance 2)

end Sys2Proof.Machine
end

