-- ==== Sys2Proof/Machine/Cycle.lean ====
section
/-! DEFINITION. One `step(rnd)` command: fetch, decode, execute, tick (40_cycle.md R80), and the placing of
an instruction where the next step fetches. -/

namespace Sys2Proof.Machine

/-- The instruction word at PC, big-endian (40_cycle.md R83, 20_memory.md R49). -/
def State.fetchWord (s : State) : Word :=
  wordOfBytes (s.readByte s.pc.toNat) (s.readByte (s.pc.toNat + 1))

/-- The fetch check: `PC >= 4095` (20_memory.md R48). -/
def State.fetchOutOfRange (s : State) : Bool := decide (Config.memSize - 1 ≤ s.pc.toNat)

/-- Execute and tick for a decoded instruction: the tick runs unless the outcome was FATAL
(40_cycle.md R80, R88). -/
def executeTick (i : Instr) (s : State) : Host.Outcome State Fault Refusal :=
  match exec i s with
  | .next t => .next t.endStep
  | .fault f => .fault f
  | .refused r => .refused r

/-- `step(rnd)` of 40_cycle.md R80: HALTED does nothing (R81); RUN clears the outputs (R82), fetches (R83),
decodes, executes (R85) and ticks (R88). -/
def stepWith (rnd : Byte) (s : State) : Host.Outcome State Fault Refusal :=
  match s.status with
  | .halted => .next s
  | .run =>
    let s' := s.beginStep rnd
    if s'.fetchOutOfRange then .next (s'.raiseFatal .pcOutOfRange)
    else executeTick (decode s'.fetchWord) s'

/-- The machine made ready to fetch: running, with PC where a word can be fetched. A running state whose PC
is below 4095 is left as it is (log entry 9). -/
def State.readyToFetch (s : State) : State :=
  { s with
    status := .run
    cause := (match s.status with | .run => s.cause | .halted => .none)
    pc := if s.fetchOutOfRange then 0x200 else s.pc }

/-- The two bytes of `w` stored at PC, high byte first (20_memory.md R49). -/
def State.placeWord (s : State) (w : Word) : State :=
  s.readyToFetch.writeBytes s.readyToFetch.pc.toNat (bytesOfWord w)

end Sys2Proof.Machine
end

