-- ==== Sys2Proof/Machine/Step.lean ====
section
/-! DEFINITION. The host's step: `step(rnd)` with the free random byte of this step (00_scope.md R8), and the
placing of a table word where the next step fetches (log entry 9). -/

namespace Sys2Proof.Machine

/-- One step with the next byte of the free stream `Config.rnd` (log entry 1). -/
def step (s : State) : Host.Outcome State Fault Refusal := stepWith (Config.rnd s.rndIdx) s

/-- `s` with the instruction of `nbits` table bits `w` stored where the next step fetches. -/
def State.withFetchWord (s : State) (nbits w : Nat) : State := s.placeWord (tableWord nbits w)

end Sys2Proof.Machine
end

