-- ==== Sys2Proof/Machine/Commands.lean ====
section
/-! DEFINITION. The host's four atomic commands, the boot order it owes CORE and the outputs it reads between
commands (00_scope.md R9 to R11; 60_exceptions.md R166; 70_reset_and_hazards.md R175). -/

namespace Sys2Proof.Machine

/-- The result of `load` (70_reset_and_hazards.md R172). -/
inductive LoadResult where
  | ok
  | tooLarge
  deriving DecidableEq, Repr

/-- What CORE does on `load(bytes)`: the bytes copied to 0x200 up, or nothing when there are more than 3584
(70_reset_and_hazards.md R172, R173; also of a halted machine, 60_exceptions.md R156). When the host may issue
it is `issueLoad`'s (log entry 10). -/
def State.load (s : State) (bytes : List Byte) : State × LoadResult :=
  if Config.progMax < bytes.length then (s, .tooLarge)
  else (s.writeBytes Config.progBase bytes, .ok)

/-- `set_keys(k)`: `KEY[i] <- k[i]` for every i (45_input.md R137). -/
def State.setKeys (s : State) (k : BitVec 16) : State :=
  { s with key := Vector.ofFn fun i : Fin 16 => k.getLsbD i.val }

/-- `reset` in any state (70_reset_and_hazards.md R171). The machine keeps its table FONT, and the model's step
counter goes on counting, so that the random bytes after a second reset are not those after the first
(log entries 1, 3). -/
def State.resetFrom (s : State) : State := { State.resetWith s.font with rndIdx := s.rndIdx }

/-- The outputs (00_scope.md R10). -/
structure Outputs where
  dispOut : Display
  redraw : Bool
  beep : Bool
  status : Status
  cause : BitVec 3
  vfOut : Byte
  deriving DecidableEq, Repr

/-- What the host reads between commands (00_scope.md R10; `vf_out` is V[15] itself, 10_state.md R22). -/
def State.outputs (s : State) : Outputs where
  dispOut := s.disp
  redraw := s.redraw
  beep := s.beep
  status := s.status
  cause := s.cause.code
  vfOut := s.reg vf

/-- The commands (00_scope.md R9). -/
inductive Command where
  | reset
  | load (bytes : List Byte)
  | setKeys (k : BitVec 16)
  | step (rnd : Byte)
  deriving DecidableEq, Repr

/-- What a command returns (00_scope.md R9). -/
inductive Reply where
  | nothing
  | loaded (r : LoadResult)
  deriving DecidableEq, Repr

/-- What the host has done since the last `reset`, as far as the boot order goes
(70_reset_and_hazards.md R175). -/
inductive BootPhase where
  /-- `reset` and no `load` yet. -/
  | fresh
  /-- The one `load` has succeeded, and no `step` yet. -/
  | loaded
  /-- The one `load` was too large (70_reset_and_hazards.md R173). -/
  | loadFailed
  /-- The program runs. -/
  | stepping
  deriving DecidableEq, Repr

/-- A machine in the host's hands. -/
inductive Session where
  /-- Before the first `reset`: no state of CORE is defined (10_state.md R43), only the machine's table FONT. -/
  | unreset (font : Font)
  /-- After a `reset`. -/
  | live (phase : BootPhase) (core : State)
  deriving DecidableEq, Repr

/-- The session after `reset`, which may be issued at any time (60_exceptions.md R166). -/
def Session.reset : Session → Session
  | .unreset font => .live .fresh (State.resetWith font)
  | .live _ s => .live .fresh s.resetFrom

/-- The phase after a `load` with this result. -/
def LoadResult.phase : LoadResult → BootPhase
  | .ok => .loaded
  | .tooLarge => .loadFailed

/-- `load`: once, after `reset` and before the first `step` (70_reset_and_hazards.md R175); any other is refused
by name (93_implementation_defined.md section 1; log entry 10). -/
def issueLoad (bytes : List Byte) : Session → Host.Outcome (Session × Reply) Fault Refusal
  | .unreset _ => .refused (.hostOutOfOrder .beforeReset)
  | .live .fresh s => .next (.live (s.load bytes).2.phase (s.load bytes).1, .loaded (s.load bytes).2)
  | .live .loaded _ => .refused (.hostOutOfOrder .loadRepeated)
  | .live .loadFailed _ => .refused (.hostOutOfOrder .loadRepeated)
  | .live .stepping _ => .refused (.hostOutOfOrder .loadAfterStep)

/-- `set_keys`: between any two commands after `reset` (70_reset_and_hazards.md R175). -/
def issueSetKeys (k : BitVec 16) : Session → Host.Outcome (Session × Reply) Fault Refusal
  | .unreset _ => .refused (.hostOutOfOrder .beforeReset)
  | .live phase s => .next (.live phase (s.setKeys k), .nothing)

/-- A step of a loaded program. -/
def issueRun (rnd : Byte) (s : State) : Host.Outcome (Session × Reply) Fault Refusal :=
  match stepWith rnd s with
  | .next t => .next (.live .stepping t, .nothing)
  | .fault f => .fault f
  | .refused r => .refused r

/-- `step`: after the `load`, unless that was too large (70_reset_and_hazards.md R173, R175, R176). -/
def issueStep (rnd : Byte) : Session → Host.Outcome (Session × Reply) Fault Refusal
  | .unreset _ => .refused (.hostOutOfOrder .beforeReset)
  | .live .fresh _ => .refused (.hostOutOfOrder .stepBeforeLoad)
  | .live .loaded s => issueRun rnd s
  | .live .loadFailed _ => .refused (.hostOutOfOrder .stepAfterFailedLoad)
  | .live .stepping s => issueRun rnd s

/-- One command, from the session before it to the session after it and the reply (00_scope.md R9). -/
def issue (c : Command) (h : Session) : Host.Outcome (Session × Reply) Fault Refusal :=
  match c with
  | .reset => .next (h.reset, .nothing)
  | .load bytes => issueLoad bytes h
  | .setKeys k => issueSetKeys k h
  | .step rnd => issueStep rnd h

/-- A list of commands, one after the other (00_scope.md R9: no command overlaps another). -/
def issueAll : List Command → Session → Host.Outcome Session Fault Refusal
  | [], h => .next h
  | c :: rest, h =>
    match issue c h with
    | .next (h', _) => issueAll rest h'
    | .fault f => .fault f
    | .refused r => .refused r

end Sys2Proof.Machine
end

