-- ==== Sys2Proof/Safety.lean ====
section
/-! DEFINITION. What counts as a sound and a running state, in the terms the statements use. -/

namespace Sys2Proof

open Sys2Proof.Machine

/-- CORE is running: no fatal condition has stopped it. HALTED is never a successful end (40_cycle.md R81). -/
abbrev Running (s : State) : Prop := s.status = .run

/-- CAUSE is NONE exactly while RUN (60_exceptions.md R153). -/
abbrev CauseMatchesStatus (s : State) : Prop := s.cause = .none ↔ s.status = .run

/-- PC is at most 0x10FE (10_state.md R25). -/
abbrev PcBounded (s : State) : Prop := s.pc.toNat ≤ 0x10FE

/-- Every live return address was the address of a fetched `CALL`, so at most 4094 (10_state.md R25). -/
abbrev StackBounded (s : State) : Prop := ∀ k : Fin 16, k.val < s.sp.val → s.stack[k].toNat ≤ 4094

/-- The outputs of a halted machine: REDRAW and BEEP are 0 (40_cycle.md R81). -/
abbrev HaltedOutputs (s : State) : Prop := s.status = .halted → s.redraw = false ∧ s.beep = false

/-- The invariant of CORE: what every step and every command keeps. -/
structure Inv (s : State) : Prop where
  memory : s.memWf = true
  cause : CauseMatchesStatus s
  pc : PcBounded s
  stack : StackBounded s
  outputs : HaltedOutputs s

/-- A session whose machine, once reset, is in a sound state. -/
def Sound : Session → Prop
  | .unreset _ => True
  | .live _ s => Inv s

/-- The session's machine is halted. -/
def HaltedSession : Session → Prop
  | .unreset _ => False
  | .live _ s => s.status = .halted

/-- A waiting state: a running machine whose PC addresses `LD Vx, K` while no key is pressed
(45_input.md R142). -/
structure Waiting (s : State) : Prop where
  running : Running s
  inRange : s.fetchOutOfRange = false
  atKeyWait : ∃ x, decode s.fetchWord = .ldVxK x
  noKey : ∀ k, s.keyDown k = false

end Sys2Proof
end

