-- ==== Sys2Proof/Certificates/Slice0/Obligations.lean ====
section
/-! DEFINITION. The statements for the provers, each from a numbered rule of spec/ or derived from its
sections (the docstring says which). State fields are those of 10_state.md R41; `s.rnd` and `s.rndIdx` are the
model's own (log entry 1). -/

open Sys2Proof Sys2Proof.Machine

/-! ## Decoding and encoding -/

/-- Words written out from the encodings of 30_encoding.md R69, one or more per family (the hex values are
general knowledge in the spec itself, log entry 5). -/
def Obligations.SpecWordsDecode : Prop :=
  decode 0x00E0 = .cls ∧ decode 0x00EE = .ret ∧ decode 0x0123 = .sys 0x123 ∧ decode 0x1ABC = .jp 0xABC ∧
  decode 0x2300 = .call 0x300 ∧ decode 0x3342 = .seByte 3 0x42 ∧ decode 0x9120 = .sneReg 1 2 ∧
  decode 0x6A7B = .ldByte 0xA 0x7B ∧ decode 0x8124 = .addReg 1 2 ∧ decode 0x812E = .shl 1 2 ∧
  decode 0x812F = .nop8F 1 2 ∧ decode 0xB300 = .jpV0 0x300 ∧ decode 0xC30F = .rnd 3 0x0F ∧
  decode 0xD015 = .drw 0 1 5 ∧ decode 0xE19E = .skp 1 ∧ decode 0xF20A = .ldVxK 2 ∧ decode 0xF018 = .ldSt 0 ∧
  decode 0xF533 = .ldB 5 ∧ decode 0xF155 = .ldMem 1 ∧ decode 0xF265 = .ldRegs 2

/-- Decode and encode agree (30_encoding.md §3, §6), for every CLASS0_DISPATCH, every instruction and every
value of its operands. -/
def Obligations.EncodedInstructionsDecodeBack : Prop :=
  ∀ (d : Class0Dispatch) (i : Instr), i.wellFormed d = true → decodeWith d (encode i) = i

/-- The other direction: every word decodes to a well-formed instruction, whose own word is the word read but
for the ignored bits (30_encoding.md §3: the map is total; classes 5 and 9 ignore the low nibble; `CLS` and
`RET` ignore bits that CLASS0_DISPATCH leaves out). -/
def Obligations.EveryWordDecodesAndEncodesBack : Prop :=
  ∀ (d : Class0Dispatch) (w : Word),
    (decodeWith d w).wellFormed d = true ∧
    (w.toNat / 4096 = 5 ∨ w.toNat / 4096 = 9 → encode (decodeWith d w) = w &&& 0xFFF0) ∧
    (w.toNat / 4096 ≠ 5 → w.toNat / 4096 ≠ 9 → decodeWith d w ≠ .cls → decodeWith d w ≠ .ret →
      encode (decodeWith d w) = w)

/-- The fields of a word as numbers (30_encoding.md R66). -/
def Obligations.FieldsAreNibblesOfTheWord : Prop :=
  ∀ w : Word,
    (fieldClass w).toNat = w.toNat / 4096 ∧ (fieldX w).val = w.toNat / 256 % 16 ∧
    (fieldY w).val = w.toNat / 16 % 16 ∧ (fieldN w).toNat = w.toNat % 16 ∧
    (fieldKK w).toNat = w.toNat % 256 ∧ (fieldNNN w).toNat = w.toNat % 4096

/-- 30_encoding.md R71: in the classes with one instruction no bit is checked beyond the class, and the
operands are the fields of the word; classes 5 and 9 ignore the low nibble. -/
def Obligations.SingleInstructionClasses : Prop :=
  ∀ (d : Class0Dispatch) (w : Word),
    (w.toNat / 4096 = 0x1 → decodeWith d w = .jp (BitVec.ofNat 12 w.toNat)) ∧
    (w.toNat / 4096 = 0x2 → decodeWith d w = .call (BitVec.ofNat 12 w.toNat)) ∧
    (w.toNat / 4096 = 0x3 → decodeWith d w = .seByte (Fin.ofNat 16 (w.toNat / 256)) (BitVec.ofNat 8 w.toNat)) ∧
    (w.toNat / 4096 = 0x4 → decodeWith d w = .sneByte (Fin.ofNat 16 (w.toNat / 256)) (BitVec.ofNat 8 w.toNat)) ∧
    (w.toNat / 4096 = 0x5 → decodeWith d w =
      .seReg (Fin.ofNat 16 (w.toNat / 256)) (Fin.ofNat 16 (w.toNat / 16))) ∧
    (w.toNat / 4096 = 0x6 → decodeWith d w = .ldByte (Fin.ofNat 16 (w.toNat / 256)) (BitVec.ofNat 8 w.toNat)) ∧
    (w.toNat / 4096 = 0x7 → decodeWith d w = .addByte (Fin.ofNat 16 (w.toNat / 256)) (BitVec.ofNat 8 w.toNat)) ∧
    (w.toNat / 4096 = 0x9 → decodeWith d w =
      .sneReg (Fin.ofNat 16 (w.toNat / 256)) (Fin.ofNat 16 (w.toNat / 16))) ∧
    (w.toNat / 4096 = 0xA → decodeWith d w = .ldI (BitVec.ofNat 12 w.toNat)) ∧
    (w.toNat / 4096 = 0xB → decodeWith d w = .jpV0 (BitVec.ofNat 12 w.toNat)) ∧
    (w.toNat / 4096 = 0xC → decodeWith d w = .rnd (Fin.ofNat 16 (w.toNat / 256)) (BitVec.ofNat 8 w.toNat)) ∧
    (w.toNat / 4096 = 0xD → decodeWith d w =
      .drw (Fin.ofNat 16 (w.toNat / 256)) (Fin.ofNat 16 (w.toNat / 16)) (BitVec.ofNat 4 w.toNat))

/-- 30_encoding.md R72 (class 8 selects on the low nibble, all sixteen values) and §3 (classes E and F
dispatch on the low byte, the named instructions). -/
def Obligations.SecondaryDispatchSelects : Prop :=
  ∀ (d : Class0Dispatch) (w : Word) (x y : Reg),
    x = Fin.ofNat 16 (w.toNat / 256) → y = Fin.ofNat 16 (w.toNat / 16) →
    (w.toNat / 4096 = 0x8 →
      (w.toNat % 16 = 0x0 → decodeWith d w = .ldReg x y) ∧ (w.toNat % 16 = 0x1 → decodeWith d w = .or x y) ∧
      (w.toNat % 16 = 0x2 → decodeWith d w = .and x y) ∧ (w.toNat % 16 = 0x3 → decodeWith d w = .xor x y) ∧
      (w.toNat % 16 = 0x4 → decodeWith d w = .addReg x y) ∧ (w.toNat % 16 = 0x5 → decodeWith d w = .sub x y) ∧
      (w.toNat % 16 = 0x6 → decodeWith d w = .shr x y) ∧ (w.toNat % 16 = 0x7 → decodeWith d w = .subn x y) ∧
      (w.toNat % 16 = 0xE → decodeWith d w = .shl x y) ∧
      (w.toNat % 16 = 0x8 → decodeWith d w = .nop88 x y) ∧ (w.toNat % 16 = 0x9 → decodeWith d w = .nop89 x y) ∧
      (w.toNat % 16 = 0xA → decodeWith d w = .nop8A x y) ∧ (w.toNat % 16 = 0xB → decodeWith d w = .nop8B x y) ∧
      (w.toNat % 16 = 0xC → decodeWith d w = .nop8C x y) ∧ (w.toNat % 16 = 0xD → decodeWith d w = .nop8D x y) ∧
      (w.toNat % 16 = 0xF → decodeWith d w = .nop8F x y)) ∧
    (w.toNat / 4096 = 0xE →
      (w.toNat % 256 = 0x9E → decodeWith d w = .skp x) ∧ (w.toNat % 256 = 0xA1 → decodeWith d w = .sknp x)) ∧
    (w.toNat / 4096 = 0xF →
      (w.toNat % 256 = 0x07 → decodeWith d w = .ldVxDt x) ∧ (w.toNat % 256 = 0x0A → decodeWith d w = .ldVxK x) ∧
      (w.toNat % 256 = 0x15 → decodeWith d w = .ldDt x) ∧ (w.toNat % 256 = 0x18 → decodeWith d w = .ldSt x) ∧
      (w.toNat % 256 = 0x1E → decodeWith d w = .addI x) ∧ (w.toNat % 256 = 0x29 → decodeWith d w = .ldF x) ∧
      (w.toNat % 256 = 0x33 → decodeWith d w = .ldB x) ∧ (w.toNat % 256 = 0x55 → decodeWith d w = .ldMem x) ∧
      (w.toNat % 256 = 0x65 → decodeWith d w = .ldRegs x))

/-- 30_encoding.md R73 and 00_scope.md R7: class 0 under each value of CLASS0_DISPATCH; all three agree on
0x00E0 and 0x00EE, and the spec's value is LOW_BYTE. -/
def Obligations.ClassZeroDispatch : Prop :=
  (∀ w : Word, w.toNat < 4096 →
    decodeWith .lowByte w = (if w.toNat % 256 = 0xE0 then .cls else if w.toNat % 256 = 0xEE then .ret
      else .sys (BitVec.ofNat 12 w.toNat)) ∧
    decodeWith .fullWord w = (if w.toNat = 0x0E0 then .cls else if w.toNat = 0x0EE then .ret
      else .sys (BitVec.ofNat 12 w.toNat)) ∧
    decodeWith .lowNibble w = (if w.toNat % 16 = 0x0 then .cls else if w.toNat % 16 = 0xE then .ret
      else .sys (BitVec.ofNat 12 w.toNat))) ∧
  (∀ d : Class0Dispatch, decodeWith d 0x00E0 = .cls ∧ decodeWith d 0x00EE = .ret) ∧
  Config.class0Dispatch = .lowByte

/-- 30_encoding.md R74: an unrecognised word of a recognised class is a no-op (class 0 at the spec's
CLASS0_DISPATCH = LOW_BYTE), and a step of one ticks. -/
def Obligations.UnrecognisedWordsAreNoOps : Prop :=
  ∀ (w : Word) (s : State),
    ((w.toNat / 4096 = 0x0 ∧ w.toNat % 256 ∉ [0xE0, 0xEE]) ∨
     (w.toNat / 4096 = 0x8 ∧ w.toNat % 16 ∈ [0x8, 0x9, 0xA, 0xB, 0xC, 0xD, 0xF]) ∨
     (w.toNat / 4096 = 0xE ∧ w.toNat % 256 ∉ [0x9E, 0xA1]) ∨
     (w.toNat / 4096 = 0xF ∧ w.toNat % 256 ∉ [0x07, 0x0A, 0x15, 0x18, 0x1E, 0x29, 0x33, 0x55, 0x65])) →
    exec (decode w) s = .next { s with pc := s.pc + 2 } ∧
    (Running s → s.pc.toNat < 4095 → s.fetchWord = w →
      ∀ rnd, stepWith rnd s = .next { s.beginStep rnd with pc := s.pc + 2 }.tick)

/-! ## Control transfer -/

/-- 30_encoding.md R74, 41_control.md R93, 42_alu.md R118: each of the ten no-op instructions only advances
PC by 2. -/
def Obligations.NoOpInstructionsOnlyAdvance : Prop :=
  ∀ (s : State) (nnn : Addr12) (x y : Reg) (kk : Byte),
    exec (.sys nnn) s = .next { s with pc := s.pc + 2 } ∧
    exec (.nop88 x y) s = .next { s with pc := s.pc + 2 } ∧
    exec (.nop89 x y) s = .next { s with pc := s.pc + 2 } ∧
    exec (.nop8A x y) s = .next { s with pc := s.pc + 2 } ∧
    exec (.nop8B x y) s = .next { s with pc := s.pc + 2 } ∧
    exec (.nop8C x y) s = .next { s with pc := s.pc + 2 } ∧
    exec (.nop8D x y) s = .next { s with pc := s.pc + 2 } ∧
    exec (.nop8F x y) s = .next { s with pc := s.pc + 2 } ∧
    exec (.nopE x kk) s = .next { s with pc := s.pc + 2 } ∧
    exec (.nopF x kk) s = .next { s with pc := s.pc + 2 }

/-- 41_control.md R94: `RET` with a live entry pops it, the entry is not cleared and nothing else changes;
with an empty stack it is fatal and changes nothing else. PC is the exact sum in every state a run reaches
(10_state.md R25; log entry 7). -/
def Obligations.ReturnPopsOrUnderflows : Prop :=
  ∀ s : State,
    (∀ k : Fin 16, s.sp.val = k.val + 1 →
      exec .ret s = .next { s with sp := k.castSucc, pc := s.stack[k] + 2 }) ∧
    (s.sp.val = 0 → exec .ret s = .next { s with status := .halted, cause := .stackUnderflow })

/-- 41_control.md R95: `JP addr` sets PC to NNN, zero-extended, and nothing else. -/
def Obligations.JumpSetsPc : Prop :=
  ∀ (s : State) (nnn : Addr12), exec (.jp nnn) s = .next { s with pc := BitVec.ofNat 16 nnn.toNat }

/-- 41_control.md R96: `CALL addr` with room pushes the CALL's own address and jumps; with a full stack it is
fatal and writes nothing. -/
def Obligations.CallPushesOrOverflows : Prop :=
  ∀ (s : State) (nnn : Addr12),
    (∀ k : Fin 16, s.sp.val = k.val →
      exec (.call nnn) s = .next { s with
        stack := s.stack.set k s.pc, sp := k.succ, pc := BitVec.ofNat 16 nnn.toNat }) ∧
    (s.sp.val = 16 → exec (.call nnn) s = .next { s with status := .halted, cause := .stackOverflow })

/-- 41_control.md R96: a `CALL` and the `RET` that answers it leave PC at the instruction after the call and
SP as it was; only the dead stack entry differs. -/
def Obligations.CallThenReturnResumes : Prop :=
  ∀ (s : State) (nnn : Addr12), s.sp.val < 16 →
    ∃ t u, exec (.call nnn) s = .next t ∧ exec .ret t = .next u ∧
      u.pc = s.pc + 2 ∧ u.sp = s.sp ∧
      (∀ k : Fin 16, k.val < s.sp.val → u.stack[k] = s.stack[k]) ∧
      u = { s with pc := s.pc + 2, stack := u.stack }

/-- 41_control.md R97 to R100: the four comparison skips. -/
def Obligations.ComparisonSkips : Prop :=
  ∀ (s : State) (x y : Reg) (kk : Byte),
    exec (.seByte x kk) s = .next { s with pc := if s.v[x] = kk then s.pc + 4 else s.pc + 2 } ∧
    exec (.sneByte x kk) s = .next { s with pc := if s.v[x] ≠ kk then s.pc + 4 else s.pc + 2 } ∧
    exec (.seReg x y) s = .next { s with pc := if s.v[x] = s.v[y] then s.pc + 4 else s.pc + 2 } ∧
    exec (.sneReg x y) s = .next { s with pc := if s.v[x] ≠ s.v[y] then s.pc + 4 else s.pc + 2 }

/-- 41_control.md R101: `JP V0, addr` sets PC to the exact sum NNN + V0, at most 0x10FE. -/
def Obligations.IndexedJumpAddsV0 : Prop :=
  ∀ (s : State) (nnn : Addr12), ∃ t, exec (.jpV0 nnn) s = .next t ∧
    t.pc.toNat = nnn.toNat + s.v[0].toNat ∧ t.pc.toNat ≤ 0x10FE ∧ t = { s with pc := t.pc }

/-! ## ALU -/

/-- 42_alu.md R107, R108: immediate load and add; VF is written only as a plain destination. -/
def Obligations.ImmediateOperations : Prop :=
  ∀ (s : State) (x : Reg) (kk : Byte),
    exec (.ldByte x kk) s = .next { s with v := s.v.set x kk, pc := s.pc + 2 } ∧
    exec (.addByte x kk) s = .next { s with
      v := s.v.set x (BitVec.ofNat 8 ((s.v[x].toNat + kk.toNat) % 256)), pc := s.pc + 2 }

/-- 42_alu.md R109 to R112: assign, OR, AND, XOR; VF unchanged unless X = F. -/
def Obligations.RegisterLogicOperations : Prop :=
  ∀ (s : State) (x y : Reg),
    exec (.ldReg x y) s = .next { s with v := s.v.set x s.v[y], pc := s.pc + 2 } ∧
    exec (.or x y) s = .next { s with v := s.v.set x (s.v[x] ||| s.v[y]), pc := s.pc + 2 } ∧
    exec (.and x y) s = .next { s with v := s.v.set x (s.v[x] &&& s.v[y]), pc := s.pc + 2 } ∧
    exec (.xor x y) s = .next { s with v := s.v.set x (s.v[x] ^^^ s.v[y]), pc := s.pc + 2 }

/-- 42_alu.md R113: `ADD Vx, Vy`; the carry is what VF holds, also when X = F (R106). -/
def Obligations.AddSetsCarry : Prop :=
  ∀ (s : State) (x y : Reg), ∃ t, exec (.addReg x y) s = .next t ∧
    (x ≠ 15 → t.v[x].toNat = (s.v[x].toNat + s.v[y].toNat) % 256) ∧
    t.v[15] = (if s.v[x].toNat + s.v[y].toNat > 255 then 1 else 0) ∧
    (∀ k : Reg, k ≠ x → k ≠ 15 → t.v[k] = s.v[k]) ∧ t = { s with v := t.v, pc := s.pc + 2 }

/-- 42_alu.md R114, R116: `SUB` and `SUBN`; VF is NOT borrow, with equality no borrow, also when X = F
(R106). -/
def Obligations.SubtractsSetNoBorrow : Prop :=
  ∀ (s : State) (x y : Reg),
    (∃ t, exec (.sub x y) s = .next t ∧
      (x ≠ 15 → t.v[x].toNat = (s.v[x].toNat + 256 - s.v[y].toNat) % 256) ∧
      t.v[15] = (if s.v[x].toNat ≥ s.v[y].toNat then 1 else 0) ∧
      (∀ k : Reg, k ≠ x → k ≠ 15 → t.v[k] = s.v[k]) ∧ t = { s with v := t.v, pc := s.pc + 2 }) ∧
    (∃ t, exec (.subn x y) s = .next t ∧
      (x ≠ 15 → t.v[x].toNat = (s.v[y].toNat + 256 - s.v[x].toNat) % 256) ∧
      t.v[15] = (if s.v[y].toNat ≥ s.v[x].toNat then 1 else 0) ∧
      (∀ k : Reg, k ≠ x → k ≠ 15 → t.v[k] = s.v[k]) ∧ t = { s with v := t.v, pc := s.pc + 2 })

/-- 42_alu.md R115, R117: the shifts use V[X] alone; VF is the bit shifted out, also when X = F (R106). -/
def Obligations.ShiftsPutOutTheirBit : Prop :=
  ∀ (s : State) (x y : Reg),
    (∃ t, exec (.shr x y) s = .next t ∧
      (x ≠ 15 → t.v[x].toNat = s.v[x].toNat / 2) ∧ t.v[15].toNat = s.v[x].toNat % 2 ∧
      (∀ k : Reg, k ≠ x → k ≠ 15 → t.v[k] = s.v[k]) ∧ t = { s with v := t.v, pc := s.pc + 2 }) ∧
    (∃ t, exec (.shl x y) s = .next t ∧
      (x ≠ 15 → t.v[x].toNat = s.v[x].toNat * 2 % 256) ∧ t.v[15].toNat = s.v[x].toNat / 128 ∧
      (∀ k : Reg, k ≠ x → k ≠ 15 → t.v[k] = s.v[k]) ∧ t = { s with v := t.v, pc := s.pc + 2 })

/-- 42_alu.md R119: `RND Vx, byte` masks the random byte `rnd` of the step it runs in. -/
def Obligations.RandomIsMasked : Prop :=
  ∀ (s : State) (x : Reg) (kk : Byte),
    exec (.rnd x kk) s = .next { s with v := s.v.set x (s.rnd &&& kk), pc := s.pc + 2 } ∧
    (Running s → s.pc.toNat < 4095 → decode s.fetchWord = .rnd x kk →
      ∀ rnd, ∃ t, stepWith rnd s = .next t ∧ t.v = s.v.set x (rnd &&& kk) ∧ t.pc = s.pc + 2)

/-- 42_alu.md R119, 00_scope.md R8: at a step that runs `RND Vx, byte`, V[X] may become any value whose set
bits are within KK, and no other. -/
def Obligations.RandomAdmitsExactlyTheMaskedBytes : Prop :=
  ∀ (s : State) (x : Reg) (kk b : Byte), Running s → s.pc.toNat < 4095 → decode s.fetchWord = .rnd x kk →
    ((∃ rnd t, stepWith rnd s = .next t ∧ t.v[x] = b) ↔ b &&& kk = b)

/-! ## Index register, loads and stores -/

/-- 43_index_memory.md R121 to R123: the three instructions that write I. -/
def Obligations.IndexRegisterWrites : Prop :=
  ∀ (s : State) (x : Reg) (nnn : Addr12),
    exec (.ldI nnn) s = .next { s with i := BitVec.ofNat 16 nnn.toNat, pc := s.pc + 2 } ∧
    exec (.addI x) s = .next { s with
      i := BitVec.ofNat 16 ((s.i.toNat + s.v[x].toNat) % 65536), pc := s.pc + 2 } ∧
    exec (.ldF x) s = .next { s with i := BitVec.ofNat 16 (5 * (s.v[x].toNat % 16)), pc := s.pc + 2 }

/-- 43_index_memory.md R124: the decimal digits of V[X] go to I, I + 1, I + 2; every other byte reads as
before and nothing else but PC changes; out of range it is fatal with nothing written. Memory in canonical
form is the model's representation (log entry 6), kept by every step (`InvariantKeptByStep`). -/
def Obligations.DecimalStoreWritesThreeDigits : Prop :=
  ∀ (s : State) (x : Reg),
    (s.memWf = true → dataAddr s 2 < 4096 →
      ∃ t, exec (.ldB x) s = .next t ∧
        (t.readByte (dataAddr s 0)).toNat = s.v[x].toNat / 100 ∧
        (t.readByte (dataAddr s 1)).toNat = s.v[x].toNat / 10 % 10 ∧
        (t.readByte (dataAddr s 2)).toNat = s.v[x].toNat % 10 ∧
        (∀ a, a ≠ dataAddr s 0 → a ≠ dataAddr s 1 → a ≠ dataAddr s 2 → t.readByte a = s.readByte a) ∧
        t = { s with mem := t.mem, pc := s.pc + 2 }) ∧
    (4096 ≤ s.i.toNat + 2 → exec (.ldB x) s = .next { s with status := .halted, cause := .dataAddrOutOfRange })

/-- 43_index_memory.md R125: V0..VX go to I..I + X; every other byte reads as before, I is unchanged; out of
range it is fatal with nothing written. -/
def Obligations.RegisterDumpWritesTheBlock : Prop :=
  ∀ (s : State) (x : Reg),
    (s.memWf = true → dataAddr s x.val < 4096 →
      ∃ t, exec (.ldMem x) s = .next t ∧
        (∀ k : Reg, k ≤ x → t.readByte (dataAddr s k.val) = s.v[k]) ∧
        (∀ a, a < dataAddr s 0 ∨ dataAddr s x.val < a → t.readByte a = s.readByte a) ∧
        t = { s with mem := t.mem, pc := s.pc + 2 }) ∧
    (4096 ≤ s.i.toNat + x.val → exec (.ldMem x) s = .next { s with status := .halted, cause := .dataAddrOutOfRange })

/-- 43_index_memory.md R126: memory I..I + X goes to V0..VX; the registers above X, I and memory keep their
values; out of range it is fatal with no register written. -/
def Obligations.RegisterLoadReadsTheBlock : Prop :=
  ∀ (s : State) (x : Reg),
    (dataAddr s x.val < 4096 →
      ∃ t, exec (.ldRegs x) s = .next t ∧
        (∀ k : Reg, t.v[k] = if k ≤ x then s.readByte (dataAddr s k.val) else s.v[k]) ∧
        t = { s with v := t.v, pc := s.pc + 2 }) ∧
    (4096 ≤ s.i.toNat + x.val → exec (.ldRegs x) s = .next { s with status := .halted, cause := .dataAddrOutOfRange })

/-! ## Display -/

/-- 44_display.md R130: `CLS` clears every pixel, marks a redraw, advances PC; VF is unchanged. -/
def Obligations.ClearScreenClearsEveryPixel : Prop :=
  ∀ s : State, ∃ t, exec .cls s = .next t ∧
    (∀ (px : Fin 64) (py : Fin 32), t.disp[px][py] = false) ∧
    t = { s with disp := t.disp, redraw := true, pc := s.pc + 2 }

/-- A set bit of the sprite lands on pixel (px, py): bit `7 - c` of the byte at `I + r`, at column
`(V[X] + c) mod 64` and row `(V[Y] + r) mod 32` (44_display.md R131, R132, R135). -/
def Sys2Proof.SpriteCovers (s : State) (x y : Reg) (n : Nibble) (px : Fin 64) (py : Fin 32) : Prop :=
  ∃ r, r < n.toNat ∧ ∃ c, c < 8 ∧ (s.readByte (dataAddr s r)).getLsbD (7 - c) = true ∧
    px.val = (s.v[x].toNat + c) % 64 ∧ py.val = (s.v[y].toNat + r) % 32

/-- 44_display.md R131, R132, R135, R136: a `DRW` in range flips exactly the pixels its sprite covers, VF is
1 iff a covered pixel was set and 0 otherwise (R133 says the same), REDRAW is marked, PC advances, and nothing
else changes; for every N, also 0, and every X and Y, also F. Out of range it is fatal and sets nothing. -/
def Obligations.DrawXorsTheSprite : Prop :=
  ∀ (s : State) (x y : Reg) (n : Nibble),
    ((n.toNat = 0 ∨ dataAddr s (n.toNat - 1) < 4096) →
      ∃ t, exec (.drw x y n) s = .next t ∧
        (∀ (px : Fin 64) (py : Fin 32),
          t.disp[px][py] = true ↔ ¬ (s.disp[px][py] = true ↔ SpriteCovers s x y n px py)) ∧
        (t.v[15] = 1 ∨ t.v[15] = 0) ∧
        (t.v[15] = 1 ↔ ∃ px py, s.disp[px][py] = true ∧ SpriteCovers s x y n px py) ∧
        (∀ k : Reg, k ≠ 15 → t.v[k] = s.v[k]) ∧
        t = { s with disp := t.disp, v := t.v, redraw := true, pc := s.pc + 2 }) ∧
    (0 < n.toNat → 4096 ≤ s.i.toNat + (n.toNat - 1) → exec (.drw x y n) s = .next { s with status := .halted, cause := .dataAddrOutOfRange })

/-- Derived from 44_display.md §3 (drawing the same sprite twice XORs the pixels back): two equal draws in a
row leave every pixel as it was, when neither coordinate register is VF, which the first draw overwrites. -/
def Obligations.DrawingTwiceRestoresTheDisplay : Prop :=
  ∀ (s : State) (x y : Reg) (n : Nibble), (n.toNat = 0 ∨ dataAddr s (n.toNat - 1) < 4096) →
    x ≠ 15 → y ≠ 15 →
    ∃ t u, exec (.drw x y n) s = .next t ∧ exec (.drw x y n) t = .next u ∧ u.disp = s.disp

/-- 44_display.md R134: `DRW` with N = 0 flips nothing, clears VF, marks a redraw, for every I. -/
def Obligations.DrawOfNoRows : Prop :=
  ∀ (s : State) (x y : Reg),
    exec (.drw x y 0) s = .next { s with v := s.v.set 15 0, redraw := true, pc := s.pc + 2 }

/-! ## Keys -/

/-- 45_input.md R139, R140: the key skips test the key that the low nibble of V[X] selects. -/
def Obligations.KeySkips : Prop :=
  ∀ (s : State) (x k : Reg), k.val = s.v[x].toNat % 16 →
    exec (.skp x) s = .next { s with pc := if s.key[k] = true then s.pc + 4 else s.pc + 2 } ∧
    exec (.sknp x) s = .next { s with pc := if s.key[k] = false then s.pc + 4 else s.pc + 2 }

/-- 45_input.md R141, R143: with a key pressed, `LD Vx, K` stores the lowest pressed index and advances; with
none it is BLOCKED and nothing changes. -/
def Obligations.KeyWaitTakesTheLowestKeyOrBlocks : Prop :=
  ∀ (s : State) (x : Reg),
    (∀ k : Reg, s.key[k] = true → (∀ j : Reg, j < k → s.key[j] = false) →
      exec (.ldVxK x) s = .next { s with v := s.v.set x (BitVec.ofNat 8 k.val), pc := s.pc + 2 }) ∧
    ((∀ k : Reg, s.key[k] = false) → exec (.ldVxK x) s = .next s)

/-- 45_input.md R142, 46_timers.md R149: a waiting machine stays waiting for any number of steps, with PC,
registers, memory and display unchanged, while the timers go on decaying. -/
def Obligations.WaitingGoesOnWhileTimersDecay : Prop :=
  ∀ (n : Nat) (s : State), Waiting s →
    ∃ t, Host.Core.run Sys2Proof.core n s = .next t ∧ Waiting t ∧ t.pc = s.pc ∧
      t.dt.toNat = s.dt.toNat - n ∧ t.st.toNat = s.st.toNat - n ∧
      t = { s with dt := t.dt, st := t.st, redraw := t.redraw, beep := t.beep, rnd := t.rnd,
                   rndIdx := t.rndIdx }

/-! ## Timers -/

/-- 46_timers.md R145, R146, R148: the three timer moves, before the tick of the step they run in and after
it. -/
def Obligations.TimerMoves : Prop :=
  ∀ (s : State) (x : Reg),
    exec (.ldVxDt x) s = .next { s with v := s.v.set x s.dt, pc := s.pc + 2 } ∧
    exec (.ldDt x) s = .next { s with dt := s.v[x], pc := s.pc + 2 } ∧
    exec (.ldSt x) s = .next { s with st := s.v[x], pc := s.pc + 2 } ∧
    (Running s → s.pc.toNat < 4095 → ∀ rnd,
      (decode s.fetchWord = .ldVxDt x →
        ∃ t, stepWith rnd s = .next t ∧ t.v[x] = s.dt ∧ t.dt.toNat = s.dt.toNat - 1) ∧
      (decode s.fetchWord = .ldDt x → ∃ t, stepWith rnd s = .next t ∧ t.dt.toNat = s.v[x].toNat - 1) ∧
      (decode s.fetchWord = .ldSt x →
        ∃ t, stepWith rnd s = .next t ∧ t.st.toNat = s.v[x].toNat - 1 ∧ (t.beep = true ↔ s.v[x] = 1)))

/-- 46_timers.md R147: the tick decrements each nonzero timer and beeps when it takes ST from 1 to 0. -/
def Obligations.TickDecrementsNonzeroTimers : Prop :=
  ∀ s : State,
    (s.tick.dt.toNat = s.dt.toNat - 1) ∧ (s.tick.st.toNat = s.st.toNat - 1) ∧
    (s.tick.beep = true ↔ s.st = 1 ∨ s.beep = true) ∧
    s.tick = { s with dt := s.tick.dt, st := s.tick.st, beep := s.tick.beep }

/-- 40_cycle.md R88, 46_timers.md R151: every running step that completes or blocks ends with the tick, which
acts on the value the instruction wrote, if it wrote one; the beep is 1 iff that tick took ST from 1 to 0; a
fatal step does not tick. -/
def Obligations.StepsTickTheTimers : Prop :=
  ∀ s t : State, Running s → step s = .next t →
    (Running t →
      (∀ x, decode s.fetchWord = .ldDt x → t.dt.toNat = s.v[x].toNat - 1) ∧
      ((∀ x, decode s.fetchWord ≠ .ldDt x) → t.dt.toNat = s.dt.toNat - 1) ∧
      (∀ x, decode s.fetchWord = .ldSt x → t.st.toNat = s.v[x].toNat - 1 ∧ (t.beep = true ↔ s.v[x] = 1)) ∧
      ((∀ x, decode s.fetchWord ≠ .ldSt x) → t.st.toNat = s.st.toNat - 1 ∧ (t.beep = true ↔ s.st = 1))) ∧
    (t.status = .halted → t.dt = s.dt ∧ t.st = s.st ∧ t.beep = false)

/-! ## The step -/

/-- 40_cycle.md R80, R81, R83: a halted machine's step changes nothing. A running step clears REDRAW and BEEP
and takes its random byte in (the model's `rnd` and `rndIdx`, log entry 1); with PC at 4095 or above it is then
fatal, and otherwise it runs exactly the instruction the two bytes at PC decode to, and ticks unless that was
fatal. -/
def Obligations.StepRunsTheDecodedInstruction : Prop :=
  ∀ s s' : State,
    s' = { s with redraw := false, beep := false, rnd := Config.rnd s.rndIdx, rndIdx := s.rndIdx + 1 } →
    (s.status = .halted → step s = .next s) ∧
    (Running s → 4095 ≤ s.pc.toNat → step s = .next { s' with status := .halted, cause := .pcOutOfRange }) ∧
    (∀ (i : Instr) (t : State), Running s → s.pc.toNat < 4095 →
      decode (s.readByte s.pc.toNat ++ s.readByte (s.pc.toNat + 1)) = i → exec i s' = .next t →
      step s = .next (if t.status = .halted then t else t.tick))

/-- Derived from 20_memory.md §6 (instruction fetch is coherent with stores): a word stored at PC, high byte
first, is the word the next step runs. -/
def Obligations.StoredWordsAreFetched : Prop :=
  ∀ (s : State) (w : Word) (rnd : Byte), Running s → s.memWf = true → s.pc.toNat < 4095 →
    stepWith rnd ((s.writeByte s.pc.toNat (BitVec.ofNat 8 (w.toNat / 256))).writeByte (s.pc.toNat + 1)
        (BitVec.ofNat 8 (w.toNat % 256))) =
      executeTick (decode w) (((s.writeByte s.pc.toNat (BitVec.ofNat 8 (w.toNat / 256))).writeByte
        (s.pc.toNat + 1) (BitVec.ofNat 8 (w.toNat % 256))).beginStep rnd)

/-- Derived from 40_cycle.md §4 (R92, every step terminates) and log entry 2: every step from every state answers
a next state. That a fatal step and a step of a halted machine answer one too is the model's choice (log entry 2):
for a model, 40_cycle.md R81 calls HALTED a fault state and never a successful end. -/
def Obligations.EveryStepAnswersNext : Prop :=
  ∀ (s : State) (rnd : Byte), ∃ t, stepWith rnd s = .next t

/-- 60_exceptions.md R154, R155: after a step that ends HALTED everything is as before it but STATUS, CAUSE,
REDRAW and BEEP (and the model's `rnd`, `rndIdx`, log entry 1). -/
def Obligations.FatalStepsArePrecise : Prop :=
  ∀ (s t : State) (rnd : Byte), Running s → stepWith rnd s = .next t → t.status = .halted →
    t.cause ≠ .none ∧
    t = { s with status := .halted, cause := t.cause, redraw := false, beep := false,
                 rnd := rnd, rndIdx := s.rndIdx + 1 }

/-- 60_exceptions.md R153: a running step ends HALTED with a given cause exactly under the condition the table
names for it, with the code the table gives it, and stays running under none of them. -/
def Obligations.FatalExactlyUnderTheNamedConditions : Prop :=
  (Cause.none.code = 0 ∧ Cause.stackOverflow.code = 1 ∧ Cause.stackUnderflow.code = 2 ∧
    Cause.pcOutOfRange.code = 3 ∧ Cause.dataAddrOutOfRange.code = 4 ∧ ∀ c : Cause, c.code.toNat ≤ 4) ∧
  ∀ (s t : State) (rnd : Byte), Running s → CauseMatchesStatus s → stepWith rnd s = .next t →
    (t.cause = .pcOutOfRange ↔ 4095 ≤ s.pc.toNat) ∧
    (t.cause = .stackOverflow ↔
      s.pc.toNat < 4095 ∧ s.sp.val = 16 ∧ ∃ nnn, decode s.fetchWord = .call nnn) ∧
    (t.cause = .stackUnderflow ↔ s.pc.toNat < 4095 ∧ s.sp.val = 0 ∧ decode s.fetchWord = .ret) ∧
    (t.cause = .dataAddrOutOfRange ↔ s.pc.toNat < 4095 ∧
      ((∃ x, decode s.fetchWord = .ldB x ∧ 4096 ≤ s.i.toNat + 2) ∨
       (∃ x, decode s.fetchWord = .ldMem x ∧ 4096 ≤ s.i.toNat + x.val) ∨
       (∃ x, decode s.fetchWord = .ldRegs x ∧ 4096 ≤ s.i.toNat + x.val) ∨
       (∃ x y n, decode s.fetchWord = .drw x y n ∧ 0 < n.toNat ∧ 4096 ≤ s.i.toNat + (n.toNat - 1)))) ∧
    (t.cause = .none ↔ Running t) ∧
    (t.status = .halted → t.pc = s.pc ∧ t.i = s.i)

/-- 10_state.md R36: REDRAW is 1 at reset, and after a running step it is 1 iff that step executed `CLS` or
`DRW` to completion. -/
def Obligations.RedrawReportsDisplayInstructions : Prop :=
  State.reset.redraw = true ∧
  ∀ s t : State, Running s → step s = .next t →
    (t.redraw = true ↔ Running t ∧
      (decode s.fetchWord = .cls ∨ ∃ x y n, decode s.fetchWord = .drw x y n))

/-! ## Who writes what -/

/-- 10_state.md R23: I is written by `LD I, addr`, `ADD I, Vx` and `LD F, Vx`, and by nothing else. -/
def Obligations.OnlyIndexInstructionsWriteI : Prop :=
  ∀ (i : Instr) (s t : State), exec i s = .next t →
    (∀ nnn, i ≠ .ldI nnn) → (∀ x, i ≠ .addI x) → (∀ x, i ≠ .ldF x) → t.i = s.i

/-- 10_state.md R32: only `CLS` and `DRW` write the display buffer. -/
def Obligations.OnlyDisplayInstructionsWriteDisp : Prop :=
  ∀ (i : Instr) (s t : State), exec i s = .next t →
    i ≠ .cls → (∀ x y n, i ≠ .drw x y n) → t.disp = s.disp

/-- 20_memory.md R51: no instruction but `LD B, Vx` and `LD [I], Vx` writes memory: every byte reads as
before. -/
def Obligations.OnlyStoresWriteMemory : Prop :=
  ∀ (i : Instr) (s t : State), exec i s = .next t →
    (∀ x, i ≠ .ldB x) → (∀ x, i ≠ .ldMem x) → ∀ a, t.readByte a = s.readByte a

/-- 10_state.md R27, R28: the stack entries are written by `CALL` alone, and SP by `CALL` and `RET` alone. -/
def Obligations.OnlyCallAndReturnTouchTheStack : Prop :=
  ∀ (i : Instr) (s t : State), exec i s = .next t → (∀ nnn, i ≠ .call nnn) →
    t.stack = s.stack ∧ (i ≠ .ret → t.sp = s.sp)

/-- The registers an instruction may write: its destination, VF where it is a flag output, V0..VX for the
register load (10_state.md R21, 42_alu.md, 43_index_memory.md R126). -/
def Sys2Proof.Instr.mayWrite : Instr → Reg → Prop
  | .ldByte x _, k | .addByte x _, k | .ldReg x _, k | .or x _, k | .and x _, k | .xor x _, k
  | .rnd x _, k | .ldVxDt x, k | .ldVxK x, k => k = x
  | .addReg x _, k | .sub x _, k | .shr x _, k | .subn x _, k | .shl x _, k => k = x ∨ k = vf
  | .drw _ _ _, k => k = vf
  | .ldRegs x, k => k ≤ x
  | .cls, _ | .ret, _ | .sys _, _ | .jp _, _ | .call _, _ | .seByte _ _, _ | .sneByte _ _, _
  | .seReg _ _, _ | .nop88 _ _, _ | .nop89 _ _, _ | .nop8A _ _, _ | .nop8B _ _, _ | .nop8C _ _, _
  | .nop8D _ _, _ | .nop8F _ _, _ | .sneReg _ _, _ | .ldI _, _ | .jpV0 _, _ | .skp _, _
  | .sknp _, _ | .nopE _ _, _ | .ldDt _, _ | .ldSt _, _ | .addI _, _ | .ldF _, _ | .ldB _, _
  | .ldMem _, _ | .nopF _ _, _ => False

/-- 10_state.md R21 and the instruction rules: every general register an instruction does not name as a
destination, VF among them, keeps its value. -/
def Obligations.OtherRegistersAreKept : Prop :=
  ∀ (i : Instr) (s t : State) (k : Reg), exec i s = .next t → ¬ i.mayWrite k → t.v[k] = s.v[k]

/-! ## Reset, the host's commands and the invariant -/

/-- 10_state.md R42, 70_reset_and_hazards.md R167: the reset value of every element of state, for every table
FONT (00_scope.md R6; log entry 3). -/
def Obligations.ResetValues : Prop :=
  (∃ f : Font, State.reset = State.resetWith f) ∧
  ∀ f : Font,
    (∀ a (h : a < 80), (State.resetWith f).readByte a = f[a]) ∧
    (∀ a, 80 ≤ a → (State.resetWith f).readByte a = 0) ∧
    (∀ k : Reg, (State.resetWith f).v[k] = 0) ∧ (State.resetWith f).i = 0 ∧ (State.resetWith f).pc = 0x200 ∧
    (State.resetWith f).sp = 0 ∧ (∀ k : Fin 16, (State.resetWith f).stack[k] = 0) ∧
    (State.resetWith f).dt = 0 ∧ (State.resetWith f).st = 0 ∧
    (∀ (px : Fin 64) (py : Fin 32), (State.resetWith f).disp[px][py] = false) ∧
    (∀ k : Reg, (State.resetWith f).key[k] = false) ∧ (State.resetWith f).redraw = true ∧
    (State.resetWith f).beep = false ∧ (State.resetWith f).status = .run ∧ (State.resetWith f).cause.code = 0

/-- 70_reset_and_hazards.md R171: `reset` in any state sets every element of state, nothing of the earlier
state survives (the parameter FONT and the model's counter `rndIdx`, which are no elements of CORE's state, are
kept, log entries 1 and 3), and it is the only way out of HALTED: no other command the host may issue and
nothing else CORE does on a command (60_exceptions.md R156) leaves it. -/
def Obligations.ResetIsTotalAndTheOnlyWayOutOfHalted : Prop :=
  (∀ (p : BootPhase) (s : State), issue .reset (.live p s) =
    .next (.live .fresh { State.resetWith s.font with rndIdx := s.rndIdx }, .nothing)) ∧
  (∀ f : Font, issue .reset (.unreset f) = .next (.live .fresh (State.resetWith f), .nothing)) ∧
  (∀ (c : Command) (p : BootPhase) (s : State) (h : Session) (r : Reply), s.status = .halted →
    issue c (.live p s) = .next (h, r) → (HaltedSession h ↔ c ≠ .reset)) ∧
  (∀ (s : State) (bytes : List Byte) (k : BitVec 16) (rnd : Byte), s.status = .halted →
    (s.load bytes).1.status = .halted ∧ (s.setKeys k).status = .halted ∧ stepWith rnd s = .next s)

/-- Derived from 70_reset_and_hazards.md §2 (R172, R173), 60_exceptions.md R156 and log entry 10: what CORE does
on `load`. At most 3584 bytes are copied to 0x200 up and nothing else is written; a longer program writes nothing
and says so. Stated of every state, also of those in which the host may not issue it: that `State.load` has a
value there is the model's choice (log entry 10), and `issue` refuses the command there
(`BootOrderIsEnforced`). -/
def Obligations.LoadCopiesTheProgram : Prop :=
  ∀ (s : State) (bytes : List Byte), s.memWf = true →
    (bytes.length ≤ 3584 → ∃ t, s.load bytes = (t, .ok) ∧
      (∀ j (h : j < bytes.length), t.readByte (0x200 + j) = bytes[j]) ∧
      (∀ a, a < 0x200 ∨ 0x200 + bytes.length ≤ a → t.readByte a = s.readByte a) ∧
      t = { s with mem := t.mem }) ∧
    (3584 < bytes.length → s.load bytes = (s, .tooLarge))

/-- 45_input.md R137: `set_keys(k)` writes every key and nothing else at any time after `reset`, `reset` clears
every key, and no step writes the latch. -/
def Obligations.KeyLatchIsTheHosts : Prop :=
  (∀ (p : BootPhase) (s : State) (k : BitVec 16), ∃ t, issue (.setKeys k) (.live p s) = .next (.live p t, .nothing) ∧
    (∀ j : Reg, t.key[j] = k.getLsbD j.val) ∧ t = { s with key := t.key }) ∧
  (∀ h : Session, ∃ t, issue .reset h = .next (.live .fresh t, .nothing) ∧ ∀ j : Reg, t.key[j] = false) ∧
  (∀ (s t : State) (rnd : Byte), stepWith rnd s = .next t → t.key = s.key)

/-- Derived from 10_state.md §4 (PC never wraps), 40_cycle.md R81, 60_exceptions.md R153 and the canonical
form of memory (log entry 6): every step keeps the invariant `Inv` of Sys2Proof/Safety.lean. -/
def Obligations.InvariantKeptByStep : Prop :=
  ∀ s t : State, Inv s → step s = .next t → Inv t

/-- The invariant holds at reset, for every table FONT. -/
def Obligations.InvariantAtReset : Prop := Inv State.reset ∧ ∀ f : Font, Inv (State.resetWith f)

/-- Derived from 00_scope.md §5, 10_state.md §4 and log entry 10: every list of commands, with whatever random
bytes, keys and programs, runs to its end and keeps the invariant, or is refused for a command outside the boot
order, and never ends otherwise. -/
def Obligations.InvariantKeptByCommands : Prop :=
  ∀ (cs : List Command) (h : Session), Sound h →
    (∃ h', issueAll cs h = .next h' ∧ Sound h') ∨ ∃ b, issueAll cs h = .refused (.hostOutOfOrder b)

/-- Derived from 70_reset_and_hazards.md §3 (R175, R176), R173 and 93_implementation_defined.md §1: the boot order.
Before the first `reset` any other command is refused. After a `reset`, `set_keys` and `reset` are always taken,
`load` once and only before the first step, `step` only after a `load` that was not too large. That a refusal is
how the model meets a host outside the boot order, and that a step before the `load` is one, is log entry 10. -/
def Obligations.BootOrderIsEnforced : Prop :=
  (∀ (f : Font) (c : Command), c ≠ .reset → issue c (.unreset f) = .refused (.hostOutOfOrder .beforeReset)) ∧
  (∀ h : Session, ∃ t, issue .reset h = .next (.live .fresh t, .nothing)) ∧
  ∀ (s : State) (p : BootPhase) (bytes : List Byte) (k : BitVec 16) (rnd : Byte),
    issue (.setKeys k) (.live p s) = .next (.live p (s.setKeys k), .nothing) ∧
    (bytes.length ≤ 3584 → issue (.load bytes) (.live .fresh s) =
      .next (.live .loaded (s.load bytes).1, .loaded .ok)) ∧
    (3584 < bytes.length → issue (.load bytes) (.live .fresh s) =
      .next (.live .loadFailed s, .loaded .tooLarge)) ∧
    issue (.load bytes) (.live .loaded s) = .refused (.hostOutOfOrder .loadRepeated) ∧
    issue (.load bytes) (.live .loadFailed s) = .refused (.hostOutOfOrder .loadRepeated) ∧
    issue (.load bytes) (.live .stepping s) = .refused (.hostOutOfOrder .loadAfterStep) ∧
    issue (.step rnd) (.live .fresh s) = .refused (.hostOutOfOrder .stepBeforeLoad) ∧
    issue (.step rnd) (.live .loadFailed s) = .refused (.hostOutOfOrder .stepAfterFailedLoad) ∧
    (p = .loaded ∨ p = .stepping →
      ∃ t, stepWith rnd s = .next t ∧ issue (.step rnd) (.live p s) = .next (.live .stepping t, .nothing))

/-- Derived from 70_reset_and_hazards.md §3 (R175): a run in the boot order is never refused. `reset`, any
`set_keys`, one `load` that fits, then any steps and `set_keys` run to their end in a state that meets the
invariant, for every table FONT. -/
def Obligations.RunsInBootOrderReachTheirEnd : Prop :=
  ∀ (f : Font) (keys : List (BitVec 16)) (bytes : List Byte) (cs : List Command), bytes.length ≤ 3584 →
    (∀ c ∈ cs, (∃ rnd, c = .step rnd) ∨ ∃ k, c = .setKeys k) →
    ∃ p s, issueAll (.reset :: (keys.map .setKeys ++ .load bytes :: cs)) (.unreset f) = .next (.live p s) ∧ Inv s
end

