-- ==== Sys2Proof/Laws/State.lean ====
section
/-! SUPPORT. The state updates field by field: one lemma for each field of each update, true by definition, so
that no later proof unfolds a record update. -/

-- One proof at a time: the joined compile then needs a bounded number of threads, whatever the machine.
set_option Elab.async false

namespace Sys2Proof.Machine

/-! ## writeByte -/

@[simp] theorem State.writeByte_mem (s : State) (a : Nat) (b : Byte) : (s.writeByte a b).mem = s.mem.write s.font a b := rfl
@[simp] theorem State.writeByte_v (s : State) (a : Nat) (b : Byte) : (s.writeByte a b).v = s.v := rfl
@[simp] theorem State.writeByte_i (s : State) (a : Nat) (b : Byte) : (s.writeByte a b).i = s.i := rfl
@[simp] theorem State.writeByte_pc (s : State) (a : Nat) (b : Byte) : (s.writeByte a b).pc = s.pc := rfl
@[simp] theorem State.writeByte_sp (s : State) (a : Nat) (b : Byte) : (s.writeByte a b).sp = s.sp := rfl
@[simp] theorem State.writeByte_stack (s : State) (a : Nat) (b : Byte) : (s.writeByte a b).stack = s.stack := rfl
@[simp] theorem State.writeByte_dt (s : State) (a : Nat) (b : Byte) : (s.writeByte a b).dt = s.dt := rfl
@[simp] theorem State.writeByte_st (s : State) (a : Nat) (b : Byte) : (s.writeByte a b).st = s.st := rfl
@[simp] theorem State.writeByte_disp (s : State) (a : Nat) (b : Byte) : (s.writeByte a b).disp = s.disp := rfl
@[simp] theorem State.writeByte_key (s : State) (a : Nat) (b : Byte) : (s.writeByte a b).key = s.key := rfl
@[simp] theorem State.writeByte_redraw (s : State) (a : Nat) (b : Byte) : (s.writeByte a b).redraw = s.redraw := rfl
@[simp] theorem State.writeByte_beep (s : State) (a : Nat) (b : Byte) : (s.writeByte a b).beep = s.beep := rfl
@[simp] theorem State.writeByte_status (s : State) (a : Nat) (b : Byte) : (s.writeByte a b).status = s.status := rfl
@[simp] theorem State.writeByte_cause (s : State) (a : Nat) (b : Byte) : (s.writeByte a b).cause = s.cause := rfl
@[simp] theorem State.writeByte_font (s : State) (a : Nat) (b : Byte) : (s.writeByte a b).font = s.font := rfl
@[simp] theorem State.writeByte_rnd (s : State) (a : Nat) (b : Byte) : (s.writeByte a b).rnd = s.rnd := rfl
@[simp] theorem State.writeByte_rndIdx (s : State) (a : Nat) (b : Byte) : (s.writeByte a b).rndIdx = s.rndIdx := rfl

/-! ## writeBytes -/

@[simp] theorem State.writeBytes_mem (s : State) (a : Nat) (bs : List Byte) : (s.writeBytes a bs).mem = s.mem.writeBytes s.font a bs := rfl
@[simp] theorem State.writeBytes_v (s : State) (a : Nat) (bs : List Byte) : (s.writeBytes a bs).v = s.v := rfl
@[simp] theorem State.writeBytes_i (s : State) (a : Nat) (bs : List Byte) : (s.writeBytes a bs).i = s.i := rfl
@[simp] theorem State.writeBytes_pc (s : State) (a : Nat) (bs : List Byte) : (s.writeBytes a bs).pc = s.pc := rfl
@[simp] theorem State.writeBytes_sp (s : State) (a : Nat) (bs : List Byte) : (s.writeBytes a bs).sp = s.sp := rfl
@[simp] theorem State.writeBytes_stack (s : State) (a : Nat) (bs : List Byte) : (s.writeBytes a bs).stack = s.stack := rfl
@[simp] theorem State.writeBytes_dt (s : State) (a : Nat) (bs : List Byte) : (s.writeBytes a bs).dt = s.dt := rfl
@[simp] theorem State.writeBytes_st (s : State) (a : Nat) (bs : List Byte) : (s.writeBytes a bs).st = s.st := rfl
@[simp] theorem State.writeBytes_disp (s : State) (a : Nat) (bs : List Byte) : (s.writeBytes a bs).disp = s.disp := rfl
@[simp] theorem State.writeBytes_key (s : State) (a : Nat) (bs : List Byte) : (s.writeBytes a bs).key = s.key := rfl
@[simp] theorem State.writeBytes_redraw (s : State) (a : Nat) (bs : List Byte) : (s.writeBytes a bs).redraw = s.redraw := rfl
@[simp] theorem State.writeBytes_beep (s : State) (a : Nat) (bs : List Byte) : (s.writeBytes a bs).beep = s.beep := rfl
@[simp] theorem State.writeBytes_status (s : State) (a : Nat) (bs : List Byte) : (s.writeBytes a bs).status = s.status := rfl
@[simp] theorem State.writeBytes_cause (s : State) (a : Nat) (bs : List Byte) : (s.writeBytes a bs).cause = s.cause := rfl
@[simp] theorem State.writeBytes_font (s : State) (a : Nat) (bs : List Byte) : (s.writeBytes a bs).font = s.font := rfl
@[simp] theorem State.writeBytes_rnd (s : State) (a : Nat) (bs : List Byte) : (s.writeBytes a bs).rnd = s.rnd := rfl
@[simp] theorem State.writeBytes_rndIdx (s : State) (a : Nat) (bs : List Byte) : (s.writeBytes a bs).rndIdx = s.rndIdx := rfl

/-! ## setReg -/

@[simp] theorem State.setReg_mem (s : State) (x : Reg) (b : Byte) : (s.setReg x b).mem = s.mem := rfl
@[simp] theorem State.setReg_v (s : State) (x : Reg) (b : Byte) : (s.setReg x b).v = s.v.set x b := rfl
@[simp] theorem State.setReg_i (s : State) (x : Reg) (b : Byte) : (s.setReg x b).i = s.i := rfl
@[simp] theorem State.setReg_pc (s : State) (x : Reg) (b : Byte) : (s.setReg x b).pc = s.pc := rfl
@[simp] theorem State.setReg_sp (s : State) (x : Reg) (b : Byte) : (s.setReg x b).sp = s.sp := rfl
@[simp] theorem State.setReg_stack (s : State) (x : Reg) (b : Byte) : (s.setReg x b).stack = s.stack := rfl
@[simp] theorem State.setReg_dt (s : State) (x : Reg) (b : Byte) : (s.setReg x b).dt = s.dt := rfl
@[simp] theorem State.setReg_st (s : State) (x : Reg) (b : Byte) : (s.setReg x b).st = s.st := rfl
@[simp] theorem State.setReg_disp (s : State) (x : Reg) (b : Byte) : (s.setReg x b).disp = s.disp := rfl
@[simp] theorem State.setReg_key (s : State) (x : Reg) (b : Byte) : (s.setReg x b).key = s.key := rfl
@[simp] theorem State.setReg_redraw (s : State) (x : Reg) (b : Byte) : (s.setReg x b).redraw = s.redraw := rfl
@[simp] theorem State.setReg_beep (s : State) (x : Reg) (b : Byte) : (s.setReg x b).beep = s.beep := rfl
@[simp] theorem State.setReg_status (s : State) (x : Reg) (b : Byte) : (s.setReg x b).status = s.status := rfl
@[simp] theorem State.setReg_cause (s : State) (x : Reg) (b : Byte) : (s.setReg x b).cause = s.cause := rfl
@[simp] theorem State.setReg_font (s : State) (x : Reg) (b : Byte) : (s.setReg x b).font = s.font := rfl
@[simp] theorem State.setReg_rnd (s : State) (x : Reg) (b : Byte) : (s.setReg x b).rnd = s.rnd := rfl
@[simp] theorem State.setReg_rndIdx (s : State) (x : Reg) (b : Byte) : (s.setReg x b).rndIdx = s.rndIdx := rfl

/-! ## setI -/

@[simp] theorem State.setI_mem (s : State) (w : Word) : (s.setI w).mem = s.mem := rfl
@[simp] theorem State.setI_v (s : State) (w : Word) : (s.setI w).v = s.v := rfl
@[simp] theorem State.setI_i (s : State) (w : Word) : (s.setI w).i = w := rfl
@[simp] theorem State.setI_pc (s : State) (w : Word) : (s.setI w).pc = s.pc := rfl
@[simp] theorem State.setI_sp (s : State) (w : Word) : (s.setI w).sp = s.sp := rfl
@[simp] theorem State.setI_stack (s : State) (w : Word) : (s.setI w).stack = s.stack := rfl
@[simp] theorem State.setI_dt (s : State) (w : Word) : (s.setI w).dt = s.dt := rfl
@[simp] theorem State.setI_st (s : State) (w : Word) : (s.setI w).st = s.st := rfl
@[simp] theorem State.setI_disp (s : State) (w : Word) : (s.setI w).disp = s.disp := rfl
@[simp] theorem State.setI_key (s : State) (w : Word) : (s.setI w).key = s.key := rfl
@[simp] theorem State.setI_redraw (s : State) (w : Word) : (s.setI w).redraw = s.redraw := rfl
@[simp] theorem State.setI_beep (s : State) (w : Word) : (s.setI w).beep = s.beep := rfl
@[simp] theorem State.setI_status (s : State) (w : Word) : (s.setI w).status = s.status := rfl
@[simp] theorem State.setI_cause (s : State) (w : Word) : (s.setI w).cause = s.cause := rfl
@[simp] theorem State.setI_font (s : State) (w : Word) : (s.setI w).font = s.font := rfl
@[simp] theorem State.setI_rnd (s : State) (w : Word) : (s.setI w).rnd = s.rnd := rfl
@[simp] theorem State.setI_rndIdx (s : State) (w : Word) : (s.setI w).rndIdx = s.rndIdx := rfl

/-! ## setPc -/

@[simp] theorem State.setPc_mem (s : State) (w : Word) : (s.setPc w).mem = s.mem := rfl
@[simp] theorem State.setPc_v (s : State) (w : Word) : (s.setPc w).v = s.v := rfl
@[simp] theorem State.setPc_i (s : State) (w : Word) : (s.setPc w).i = s.i := rfl
@[simp] theorem State.setPc_pc (s : State) (w : Word) : (s.setPc w).pc = w := rfl
@[simp] theorem State.setPc_sp (s : State) (w : Word) : (s.setPc w).sp = s.sp := rfl
@[simp] theorem State.setPc_stack (s : State) (w : Word) : (s.setPc w).stack = s.stack := rfl
@[simp] theorem State.setPc_dt (s : State) (w : Word) : (s.setPc w).dt = s.dt := rfl
@[simp] theorem State.setPc_st (s : State) (w : Word) : (s.setPc w).st = s.st := rfl
@[simp] theorem State.setPc_disp (s : State) (w : Word) : (s.setPc w).disp = s.disp := rfl
@[simp] theorem State.setPc_key (s : State) (w : Word) : (s.setPc w).key = s.key := rfl
@[simp] theorem State.setPc_redraw (s : State) (w : Word) : (s.setPc w).redraw = s.redraw := rfl
@[simp] theorem State.setPc_beep (s : State) (w : Word) : (s.setPc w).beep = s.beep := rfl
@[simp] theorem State.setPc_status (s : State) (w : Word) : (s.setPc w).status = s.status := rfl
@[simp] theorem State.setPc_cause (s : State) (w : Word) : (s.setPc w).cause = s.cause := rfl
@[simp] theorem State.setPc_font (s : State) (w : Word) : (s.setPc w).font = s.font := rfl
@[simp] theorem State.setPc_rnd (s : State) (w : Word) : (s.setPc w).rnd = s.rnd := rfl
@[simp] theorem State.setPc_rndIdx (s : State) (w : Word) : (s.setPc w).rndIdx = s.rndIdx := rfl

/-! ## advance -/

@[simp] theorem State.advance_mem (s : State) (k : Word) : (s.advance k).mem = s.mem := rfl
@[simp] theorem State.advance_v (s : State) (k : Word) : (s.advance k).v = s.v := rfl
@[simp] theorem State.advance_i (s : State) (k : Word) : (s.advance k).i = s.i := rfl
@[simp] theorem State.advance_pc (s : State) (k : Word) : (s.advance k).pc = s.pc + k := rfl
@[simp] theorem State.advance_sp (s : State) (k : Word) : (s.advance k).sp = s.sp := rfl
@[simp] theorem State.advance_stack (s : State) (k : Word) : (s.advance k).stack = s.stack := rfl
@[simp] theorem State.advance_dt (s : State) (k : Word) : (s.advance k).dt = s.dt := rfl
@[simp] theorem State.advance_st (s : State) (k : Word) : (s.advance k).st = s.st := rfl
@[simp] theorem State.advance_disp (s : State) (k : Word) : (s.advance k).disp = s.disp := rfl
@[simp] theorem State.advance_key (s : State) (k : Word) : (s.advance k).key = s.key := rfl
@[simp] theorem State.advance_redraw (s : State) (k : Word) : (s.advance k).redraw = s.redraw := rfl
@[simp] theorem State.advance_beep (s : State) (k : Word) : (s.advance k).beep = s.beep := rfl
@[simp] theorem State.advance_status (s : State) (k : Word) : (s.advance k).status = s.status := rfl
@[simp] theorem State.advance_cause (s : State) (k : Word) : (s.advance k).cause = s.cause := rfl
@[simp] theorem State.advance_font (s : State) (k : Word) : (s.advance k).font = s.font := rfl
@[simp] theorem State.advance_rnd (s : State) (k : Word) : (s.advance k).rnd = s.rnd := rfl
@[simp] theorem State.advance_rndIdx (s : State) (k : Word) : (s.advance k).rndIdx = s.rndIdx := rfl

/-! ## skipIf -/

@[simp] theorem State.skipIf_mem (s : State) (c : Bool) : (s.skipIf c).mem = s.mem := rfl
@[simp] theorem State.skipIf_v (s : State) (c : Bool) : (s.skipIf c).v = s.v := rfl
@[simp] theorem State.skipIf_i (s : State) (c : Bool) : (s.skipIf c).i = s.i := rfl
@[simp] theorem State.skipIf_pc (s : State) (c : Bool) : (s.skipIf c).pc = s.pc + (if c then 4 else 2) := rfl
@[simp] theorem State.skipIf_sp (s : State) (c : Bool) : (s.skipIf c).sp = s.sp := rfl
@[simp] theorem State.skipIf_stack (s : State) (c : Bool) : (s.skipIf c).stack = s.stack := rfl
@[simp] theorem State.skipIf_dt (s : State) (c : Bool) : (s.skipIf c).dt = s.dt := rfl
@[simp] theorem State.skipIf_st (s : State) (c : Bool) : (s.skipIf c).st = s.st := rfl
@[simp] theorem State.skipIf_disp (s : State) (c : Bool) : (s.skipIf c).disp = s.disp := rfl
@[simp] theorem State.skipIf_key (s : State) (c : Bool) : (s.skipIf c).key = s.key := rfl
@[simp] theorem State.skipIf_redraw (s : State) (c : Bool) : (s.skipIf c).redraw = s.redraw := rfl
@[simp] theorem State.skipIf_beep (s : State) (c : Bool) : (s.skipIf c).beep = s.beep := rfl
@[simp] theorem State.skipIf_status (s : State) (c : Bool) : (s.skipIf c).status = s.status := rfl
@[simp] theorem State.skipIf_cause (s : State) (c : Bool) : (s.skipIf c).cause = s.cause := rfl
@[simp] theorem State.skipIf_font (s : State) (c : Bool) : (s.skipIf c).font = s.font := rfl
@[simp] theorem State.skipIf_rnd (s : State) (c : Bool) : (s.skipIf c).rnd = s.rnd := rfl
@[simp] theorem State.skipIf_rndIdx (s : State) (c : Bool) : (s.skipIf c).rndIdx = s.rndIdx := rfl

/-! ## raiseFatal -/

@[simp] theorem State.raiseFatal_mem (s : State) (c : Cause) : (s.raiseFatal c).mem = s.mem := rfl
@[simp] theorem State.raiseFatal_v (s : State) (c : Cause) : (s.raiseFatal c).v = s.v := rfl
@[simp] theorem State.raiseFatal_i (s : State) (c : Cause) : (s.raiseFatal c).i = s.i := rfl
@[simp] theorem State.raiseFatal_pc (s : State) (c : Cause) : (s.raiseFatal c).pc = s.pc := rfl
@[simp] theorem State.raiseFatal_sp (s : State) (c : Cause) : (s.raiseFatal c).sp = s.sp := rfl
@[simp] theorem State.raiseFatal_stack (s : State) (c : Cause) : (s.raiseFatal c).stack = s.stack := rfl
@[simp] theorem State.raiseFatal_dt (s : State) (c : Cause) : (s.raiseFatal c).dt = s.dt := rfl
@[simp] theorem State.raiseFatal_st (s : State) (c : Cause) : (s.raiseFatal c).st = s.st := rfl
@[simp] theorem State.raiseFatal_disp (s : State) (c : Cause) : (s.raiseFatal c).disp = s.disp := rfl
@[simp] theorem State.raiseFatal_key (s : State) (c : Cause) : (s.raiseFatal c).key = s.key := rfl
@[simp] theorem State.raiseFatal_redraw (s : State) (c : Cause) : (s.raiseFatal c).redraw = s.redraw := rfl
@[simp] theorem State.raiseFatal_beep (s : State) (c : Cause) : (s.raiseFatal c).beep = s.beep := rfl
@[simp] theorem State.raiseFatal_status (s : State) (c : Cause) : (s.raiseFatal c).status = .halted := rfl
@[simp] theorem State.raiseFatal_cause (s : State) (c : Cause) : (s.raiseFatal c).cause = c := rfl
@[simp] theorem State.raiseFatal_font (s : State) (c : Cause) : (s.raiseFatal c).font = s.font := rfl
@[simp] theorem State.raiseFatal_rnd (s : State) (c : Cause) : (s.raiseFatal c).rnd = s.rnd := rfl
@[simp] theorem State.raiseFatal_rndIdx (s : State) (c : Cause) : (s.raiseFatal c).rndIdx = s.rndIdx := rfl

/-! ## pushPc -/

@[simp] theorem State.pushPc_mem (s : State) (h : s.sp.val < 16) : (s.pushPc h).mem = s.mem := rfl
@[simp] theorem State.pushPc_v (s : State) (h : s.sp.val < 16) : (s.pushPc h).v = s.v := rfl
@[simp] theorem State.pushPc_i (s : State) (h : s.sp.val < 16) : (s.pushPc h).i = s.i := rfl
@[simp] theorem State.pushPc_pc (s : State) (h : s.sp.val < 16) : (s.pushPc h).pc = s.pc := rfl
@[simp] theorem State.pushPc_sp (s : State) (h : s.sp.val < 16) : (s.pushPc h).sp = ⟨s.sp.val + 1, by omega⟩ := rfl
@[simp] theorem State.pushPc_stack (s : State) (h : s.sp.val < 16) : (s.pushPc h).stack = s.stack.set s.sp.val s.pc := rfl
@[simp] theorem State.pushPc_dt (s : State) (h : s.sp.val < 16) : (s.pushPc h).dt = s.dt := rfl
@[simp] theorem State.pushPc_st (s : State) (h : s.sp.val < 16) : (s.pushPc h).st = s.st := rfl
@[simp] theorem State.pushPc_disp (s : State) (h : s.sp.val < 16) : (s.pushPc h).disp = s.disp := rfl
@[simp] theorem State.pushPc_key (s : State) (h : s.sp.val < 16) : (s.pushPc h).key = s.key := rfl
@[simp] theorem State.pushPc_redraw (s : State) (h : s.sp.val < 16) : (s.pushPc h).redraw = s.redraw := rfl
@[simp] theorem State.pushPc_beep (s : State) (h : s.sp.val < 16) : (s.pushPc h).beep = s.beep := rfl
@[simp] theorem State.pushPc_status (s : State) (h : s.sp.val < 16) : (s.pushPc h).status = s.status := rfl
@[simp] theorem State.pushPc_cause (s : State) (h : s.sp.val < 16) : (s.pushPc h).cause = s.cause := rfl
@[simp] theorem State.pushPc_font (s : State) (h : s.sp.val < 16) : (s.pushPc h).font = s.font := rfl
@[simp] theorem State.pushPc_rnd (s : State) (h : s.sp.val < 16) : (s.pushPc h).rnd = s.rnd := rfl
@[simp] theorem State.pushPc_rndIdx (s : State) (h : s.sp.val < 16) : (s.pushPc h).rndIdx = s.rndIdx := rfl

/-! ## popPc -/

@[simp] theorem State.popPc_mem (s : State) (h : 0 < s.sp.val) : (s.popPc h).mem = s.mem := rfl
@[simp] theorem State.popPc_v (s : State) (h : 0 < s.sp.val) : (s.popPc h).v = s.v := rfl
@[simp] theorem State.popPc_i (s : State) (h : 0 < s.sp.val) : (s.popPc h).i = s.i := rfl
@[simp] theorem State.popPc_pc (s : State) (h : 0 < s.sp.val) : (s.popPc h).pc = s.stack[s.sp.val - 1]'(by omega) + 2 := rfl
@[simp] theorem State.popPc_sp (s : State) (h : 0 < s.sp.val) : (s.popPc h).sp = ⟨s.sp.val - 1, by omega⟩ := rfl
@[simp] theorem State.popPc_stack (s : State) (h : 0 < s.sp.val) : (s.popPc h).stack = s.stack := rfl
@[simp] theorem State.popPc_dt (s : State) (h : 0 < s.sp.val) : (s.popPc h).dt = s.dt := rfl
@[simp] theorem State.popPc_st (s : State) (h : 0 < s.sp.val) : (s.popPc h).st = s.st := rfl
@[simp] theorem State.popPc_disp (s : State) (h : 0 < s.sp.val) : (s.popPc h).disp = s.disp := rfl
@[simp] theorem State.popPc_key (s : State) (h : 0 < s.sp.val) : (s.popPc h).key = s.key := rfl
@[simp] theorem State.popPc_redraw (s : State) (h : 0 < s.sp.val) : (s.popPc h).redraw = s.redraw := rfl
@[simp] theorem State.popPc_beep (s : State) (h : 0 < s.sp.val) : (s.popPc h).beep = s.beep := rfl
@[simp] theorem State.popPc_status (s : State) (h : 0 < s.sp.val) : (s.popPc h).status = s.status := rfl
@[simp] theorem State.popPc_cause (s : State) (h : 0 < s.sp.val) : (s.popPc h).cause = s.cause := rfl
@[simp] theorem State.popPc_font (s : State) (h : 0 < s.sp.val) : (s.popPc h).font = s.font := rfl
@[simp] theorem State.popPc_rnd (s : State) (h : 0 < s.sp.val) : (s.popPc h).rnd = s.rnd := rfl
@[simp] theorem State.popPc_rndIdx (s : State) (h : 0 < s.sp.val) : (s.popPc h).rndIdx = s.rndIdx := rfl

/-! ## setDisp -/

@[simp] theorem State.setDisp_mem (s : State) (d : Display) : (s.setDisp d).mem = s.mem := rfl
@[simp] theorem State.setDisp_v (s : State) (d : Display) : (s.setDisp d).v = s.v := rfl
@[simp] theorem State.setDisp_i (s : State) (d : Display) : (s.setDisp d).i = s.i := rfl
@[simp] theorem State.setDisp_pc (s : State) (d : Display) : (s.setDisp d).pc = s.pc := rfl
@[simp] theorem State.setDisp_sp (s : State) (d : Display) : (s.setDisp d).sp = s.sp := rfl
@[simp] theorem State.setDisp_stack (s : State) (d : Display) : (s.setDisp d).stack = s.stack := rfl
@[simp] theorem State.setDisp_dt (s : State) (d : Display) : (s.setDisp d).dt = s.dt := rfl
@[simp] theorem State.setDisp_st (s : State) (d : Display) : (s.setDisp d).st = s.st := rfl
@[simp] theorem State.setDisp_disp (s : State) (d : Display) : (s.setDisp d).disp = d := rfl
@[simp] theorem State.setDisp_key (s : State) (d : Display) : (s.setDisp d).key = s.key := rfl
@[simp] theorem State.setDisp_redraw (s : State) (d : Display) : (s.setDisp d).redraw = s.redraw := rfl
@[simp] theorem State.setDisp_beep (s : State) (d : Display) : (s.setDisp d).beep = s.beep := rfl
@[simp] theorem State.setDisp_status (s : State) (d : Display) : (s.setDisp d).status = s.status := rfl
@[simp] theorem State.setDisp_cause (s : State) (d : Display) : (s.setDisp d).cause = s.cause := rfl
@[simp] theorem State.setDisp_font (s : State) (d : Display) : (s.setDisp d).font = s.font := rfl
@[simp] theorem State.setDisp_rnd (s : State) (d : Display) : (s.setDisp d).rnd = s.rnd := rfl
@[simp] theorem State.setDisp_rndIdx (s : State) (d : Display) : (s.setDisp d).rndIdx = s.rndIdx := rfl

/-! ## markRedraw -/

@[simp] theorem State.markRedraw_mem (s : State) : (s.markRedraw).mem = s.mem := rfl
@[simp] theorem State.markRedraw_v (s : State) : (s.markRedraw).v = s.v := rfl
@[simp] theorem State.markRedraw_i (s : State) : (s.markRedraw).i = s.i := rfl
@[simp] theorem State.markRedraw_pc (s : State) : (s.markRedraw).pc = s.pc := rfl
@[simp] theorem State.markRedraw_sp (s : State) : (s.markRedraw).sp = s.sp := rfl
@[simp] theorem State.markRedraw_stack (s : State) : (s.markRedraw).stack = s.stack := rfl
@[simp] theorem State.markRedraw_dt (s : State) : (s.markRedraw).dt = s.dt := rfl
@[simp] theorem State.markRedraw_st (s : State) : (s.markRedraw).st = s.st := rfl
@[simp] theorem State.markRedraw_disp (s : State) : (s.markRedraw).disp = s.disp := rfl
@[simp] theorem State.markRedraw_key (s : State) : (s.markRedraw).key = s.key := rfl
@[simp] theorem State.markRedraw_redraw (s : State) : (s.markRedraw).redraw = true := rfl
@[simp] theorem State.markRedraw_beep (s : State) : (s.markRedraw).beep = s.beep := rfl
@[simp] theorem State.markRedraw_status (s : State) : (s.markRedraw).status = s.status := rfl
@[simp] theorem State.markRedraw_cause (s : State) : (s.markRedraw).cause = s.cause := rfl
@[simp] theorem State.markRedraw_font (s : State) : (s.markRedraw).font = s.font := rfl
@[simp] theorem State.markRedraw_rnd (s : State) : (s.markRedraw).rnd = s.rnd := rfl
@[simp] theorem State.markRedraw_rndIdx (s : State) : (s.markRedraw).rndIdx = s.rndIdx := rfl

/-! ## setDt -/

@[simp] theorem State.setDt_mem (s : State) (b : Byte) : (s.setDt b).mem = s.mem := rfl
@[simp] theorem State.setDt_v (s : State) (b : Byte) : (s.setDt b).v = s.v := rfl
@[simp] theorem State.setDt_i (s : State) (b : Byte) : (s.setDt b).i = s.i := rfl
@[simp] theorem State.setDt_pc (s : State) (b : Byte) : (s.setDt b).pc = s.pc := rfl
@[simp] theorem State.setDt_sp (s : State) (b : Byte) : (s.setDt b).sp = s.sp := rfl
@[simp] theorem State.setDt_stack (s : State) (b : Byte) : (s.setDt b).stack = s.stack := rfl
@[simp] theorem State.setDt_dt (s : State) (b : Byte) : (s.setDt b).dt = b := rfl
@[simp] theorem State.setDt_st (s : State) (b : Byte) : (s.setDt b).st = s.st := rfl
@[simp] theorem State.setDt_disp (s : State) (b : Byte) : (s.setDt b).disp = s.disp := rfl
@[simp] theorem State.setDt_key (s : State) (b : Byte) : (s.setDt b).key = s.key := rfl
@[simp] theorem State.setDt_redraw (s : State) (b : Byte) : (s.setDt b).redraw = s.redraw := rfl
@[simp] theorem State.setDt_beep (s : State) (b : Byte) : (s.setDt b).beep = s.beep := rfl
@[simp] theorem State.setDt_status (s : State) (b : Byte) : (s.setDt b).status = s.status := rfl
@[simp] theorem State.setDt_cause (s : State) (b : Byte) : (s.setDt b).cause = s.cause := rfl
@[simp] theorem State.setDt_font (s : State) (b : Byte) : (s.setDt b).font = s.font := rfl
@[simp] theorem State.setDt_rnd (s : State) (b : Byte) : (s.setDt b).rnd = s.rnd := rfl
@[simp] theorem State.setDt_rndIdx (s : State) (b : Byte) : (s.setDt b).rndIdx = s.rndIdx := rfl

/-! ## setSt -/

@[simp] theorem State.setSt_mem (s : State) (b : Byte) : (s.setSt b).mem = s.mem := rfl
@[simp] theorem State.setSt_v (s : State) (b : Byte) : (s.setSt b).v = s.v := rfl
@[simp] theorem State.setSt_i (s : State) (b : Byte) : (s.setSt b).i = s.i := rfl
@[simp] theorem State.setSt_pc (s : State) (b : Byte) : (s.setSt b).pc = s.pc := rfl
@[simp] theorem State.setSt_sp (s : State) (b : Byte) : (s.setSt b).sp = s.sp := rfl
@[simp] theorem State.setSt_stack (s : State) (b : Byte) : (s.setSt b).stack = s.stack := rfl
@[simp] theorem State.setSt_dt (s : State) (b : Byte) : (s.setSt b).dt = s.dt := rfl
@[simp] theorem State.setSt_st (s : State) (b : Byte) : (s.setSt b).st = b := rfl
@[simp] theorem State.setSt_disp (s : State) (b : Byte) : (s.setSt b).disp = s.disp := rfl
@[simp] theorem State.setSt_key (s : State) (b : Byte) : (s.setSt b).key = s.key := rfl
@[simp] theorem State.setSt_redraw (s : State) (b : Byte) : (s.setSt b).redraw = s.redraw := rfl
@[simp] theorem State.setSt_beep (s : State) (b : Byte) : (s.setSt b).beep = s.beep := rfl
@[simp] theorem State.setSt_status (s : State) (b : Byte) : (s.setSt b).status = s.status := rfl
@[simp] theorem State.setSt_cause (s : State) (b : Byte) : (s.setSt b).cause = s.cause := rfl
@[simp] theorem State.setSt_font (s : State) (b : Byte) : (s.setSt b).font = s.font := rfl
@[simp] theorem State.setSt_rnd (s : State) (b : Byte) : (s.setSt b).rnd = s.rnd := rfl
@[simp] theorem State.setSt_rndIdx (s : State) (b : Byte) : (s.setSt b).rndIdx = s.rndIdx := rfl

/-! ## tick -/

@[simp] theorem State.tick_mem (s : State) : (s.tick).mem = s.mem := rfl
@[simp] theorem State.tick_v (s : State) : (s.tick).v = s.v := rfl
@[simp] theorem State.tick_i (s : State) : (s.tick).i = s.i := rfl
@[simp] theorem State.tick_pc (s : State) : (s.tick).pc = s.pc := rfl
@[simp] theorem State.tick_sp (s : State) : (s.tick).sp = s.sp := rfl
@[simp] theorem State.tick_stack (s : State) : (s.tick).stack = s.stack := rfl
@[simp] theorem State.tick_dt (s : State) : (s.tick).dt = decTimer s.dt := rfl
@[simp] theorem State.tick_st (s : State) : (s.tick).st = decTimer s.st := rfl
@[simp] theorem State.tick_disp (s : State) : (s.tick).disp = s.disp := rfl
@[simp] theorem State.tick_key (s : State) : (s.tick).key = s.key := rfl
@[simp] theorem State.tick_redraw (s : State) : (s.tick).redraw = s.redraw := rfl
@[simp] theorem State.tick_beep (s : State) : (s.tick).beep = if s.st = 1 then true else s.beep := rfl
@[simp] theorem State.tick_status (s : State) : (s.tick).status = s.status := rfl
@[simp] theorem State.tick_cause (s : State) : (s.tick).cause = s.cause := rfl
@[simp] theorem State.tick_font (s : State) : (s.tick).font = s.font := rfl
@[simp] theorem State.tick_rnd (s : State) : (s.tick).rnd = s.rnd := rfl
@[simp] theorem State.tick_rndIdx (s : State) : (s.tick).rndIdx = s.rndIdx := rfl

/-! ## beginStep -/

@[simp] theorem State.beginStep_mem (s : State) (r : Byte) : (s.beginStep r).mem = s.mem := rfl
@[simp] theorem State.beginStep_v (s : State) (r : Byte) : (s.beginStep r).v = s.v := rfl
@[simp] theorem State.beginStep_i (s : State) (r : Byte) : (s.beginStep r).i = s.i := rfl
@[simp] theorem State.beginStep_pc (s : State) (r : Byte) : (s.beginStep r).pc = s.pc := rfl
@[simp] theorem State.beginStep_sp (s : State) (r : Byte) : (s.beginStep r).sp = s.sp := rfl
@[simp] theorem State.beginStep_stack (s : State) (r : Byte) : (s.beginStep r).stack = s.stack := rfl
@[simp] theorem State.beginStep_dt (s : State) (r : Byte) : (s.beginStep r).dt = s.dt := rfl
@[simp] theorem State.beginStep_st (s : State) (r : Byte) : (s.beginStep r).st = s.st := rfl
@[simp] theorem State.beginStep_disp (s : State) (r : Byte) : (s.beginStep r).disp = s.disp := rfl
@[simp] theorem State.beginStep_key (s : State) (r : Byte) : (s.beginStep r).key = s.key := rfl
@[simp] theorem State.beginStep_redraw (s : State) (r : Byte) : (s.beginStep r).redraw = false := rfl
@[simp] theorem State.beginStep_beep (s : State) (r : Byte) : (s.beginStep r).beep = false := rfl
@[simp] theorem State.beginStep_status (s : State) (r : Byte) : (s.beginStep r).status = s.status := rfl
@[simp] theorem State.beginStep_cause (s : State) (r : Byte) : (s.beginStep r).cause = s.cause := rfl
@[simp] theorem State.beginStep_font (s : State) (r : Byte) : (s.beginStep r).font = s.font := rfl
@[simp] theorem State.beginStep_rnd (s : State) (r : Byte) : (s.beginStep r).rnd = r := rfl
@[simp] theorem State.beginStep_rndIdx (s : State) (r : Byte) : (s.beginStep r).rndIdx = s.rndIdx + 1 := rfl

/-! ## writeResultFlag -/

@[simp] theorem State.writeResultFlag_mem (s : State) (x : Reg) (r f : Byte) : (s.writeResultFlag x r f).mem = s.mem := rfl
@[simp] theorem State.writeResultFlag_v (s : State) (x : Reg) (r f : Byte) : (s.writeResultFlag x r f).v = (s.v.set x r).set vf f := rfl
@[simp] theorem State.writeResultFlag_i (s : State) (x : Reg) (r f : Byte) : (s.writeResultFlag x r f).i = s.i := rfl
@[simp] theorem State.writeResultFlag_pc (s : State) (x : Reg) (r f : Byte) : (s.writeResultFlag x r f).pc = s.pc := rfl
@[simp] theorem State.writeResultFlag_sp (s : State) (x : Reg) (r f : Byte) : (s.writeResultFlag x r f).sp = s.sp := rfl
@[simp] theorem State.writeResultFlag_stack (s : State) (x : Reg) (r f : Byte) : (s.writeResultFlag x r f).stack = s.stack := rfl
@[simp] theorem State.writeResultFlag_dt (s : State) (x : Reg) (r f : Byte) : (s.writeResultFlag x r f).dt = s.dt := rfl
@[simp] theorem State.writeResultFlag_st (s : State) (x : Reg) (r f : Byte) : (s.writeResultFlag x r f).st = s.st := rfl
@[simp] theorem State.writeResultFlag_disp (s : State) (x : Reg) (r f : Byte) : (s.writeResultFlag x r f).disp = s.disp := rfl
@[simp] theorem State.writeResultFlag_key (s : State) (x : Reg) (r f : Byte) : (s.writeResultFlag x r f).key = s.key := rfl
@[simp] theorem State.writeResultFlag_redraw (s : State) (x : Reg) (r f : Byte) : (s.writeResultFlag x r f).redraw = s.redraw := rfl
@[simp] theorem State.writeResultFlag_beep (s : State) (x : Reg) (r f : Byte) : (s.writeResultFlag x r f).beep = s.beep := rfl
@[simp] theorem State.writeResultFlag_status (s : State) (x : Reg) (r f : Byte) : (s.writeResultFlag x r f).status = s.status := rfl
@[simp] theorem State.writeResultFlag_cause (s : State) (x : Reg) (r f : Byte) : (s.writeResultFlag x r f).cause = s.cause := rfl
@[simp] theorem State.writeResultFlag_font (s : State) (x : Reg) (r f : Byte) : (s.writeResultFlag x r f).font = s.font := rfl
@[simp] theorem State.writeResultFlag_rnd (s : State) (x : Reg) (r f : Byte) : (s.writeResultFlag x r f).rnd = s.rnd := rfl
@[simp] theorem State.writeResultFlag_rndIdx (s : State) (x : Reg) (r f : Byte) : (s.writeResultFlag x r f).rndIdx = s.rndIdx := rfl

/-! ## drawn -/

@[simp] theorem State.drawn_mem (s : State) (r : Display × Bool) : (s.drawn r).mem = s.mem := rfl
@[simp] theorem State.drawn_v (s : State) (r : Display × Bool) : (s.drawn r).v = s.v.set vf (flagByte r.2) := rfl
@[simp] theorem State.drawn_i (s : State) (r : Display × Bool) : (s.drawn r).i = s.i := rfl
@[simp] theorem State.drawn_pc (s : State) (r : Display × Bool) : (s.drawn r).pc = s.pc + 2 := rfl
@[simp] theorem State.drawn_sp (s : State) (r : Display × Bool) : (s.drawn r).sp = s.sp := rfl
@[simp] theorem State.drawn_stack (s : State) (r : Display × Bool) : (s.drawn r).stack = s.stack := rfl
@[simp] theorem State.drawn_dt (s : State) (r : Display × Bool) : (s.drawn r).dt = s.dt := rfl
@[simp] theorem State.drawn_st (s : State) (r : Display × Bool) : (s.drawn r).st = s.st := rfl
@[simp] theorem State.drawn_disp (s : State) (r : Display × Bool) : (s.drawn r).disp = r.1 := rfl
@[simp] theorem State.drawn_key (s : State) (r : Display × Bool) : (s.drawn r).key = s.key := rfl
@[simp] theorem State.drawn_redraw (s : State) (r : Display × Bool) : (s.drawn r).redraw = true := rfl
@[simp] theorem State.drawn_beep (s : State) (r : Display × Bool) : (s.drawn r).beep = s.beep := rfl
@[simp] theorem State.drawn_status (s : State) (r : Display × Bool) : (s.drawn r).status = s.status := rfl
@[simp] theorem State.drawn_cause (s : State) (r : Display × Bool) : (s.drawn r).cause = s.cause := rfl
@[simp] theorem State.drawn_font (s : State) (r : Display × Bool) : (s.drawn r).font = s.font := rfl
@[simp] theorem State.drawn_rnd (s : State) (r : Display × Bool) : (s.drawn r).rnd = s.rnd := rfl
@[simp] theorem State.drawn_rndIdx (s : State) (r : Display × Bool) : (s.drawn r).rndIdx = s.rndIdx := rfl

/-! ## setKeys (by unfolding first: `rfl` would compare the whole key latch) -/

@[simp] theorem State.setKeys_mem (s : State) (k : BitVec 16) : (s.setKeys k).mem = s.mem := by simp only [State.setKeys]
@[simp] theorem State.setKeys_v (s : State) (k : BitVec 16) : (s.setKeys k).v = s.v := by simp only [State.setKeys]
@[simp] theorem State.setKeys_i (s : State) (k : BitVec 16) : (s.setKeys k).i = s.i := by simp only [State.setKeys]
@[simp] theorem State.setKeys_pc (s : State) (k : BitVec 16) : (s.setKeys k).pc = s.pc := by simp only [State.setKeys]
@[simp] theorem State.setKeys_sp (s : State) (k : BitVec 16) : (s.setKeys k).sp = s.sp := by simp only [State.setKeys]
@[simp] theorem State.setKeys_stack (s : State) (k : BitVec 16) : (s.setKeys k).stack = s.stack := by simp only [State.setKeys]
@[simp] theorem State.setKeys_dt (s : State) (k : BitVec 16) : (s.setKeys k).dt = s.dt := by simp only [State.setKeys]
@[simp] theorem State.setKeys_st (s : State) (k : BitVec 16) : (s.setKeys k).st = s.st := by simp only [State.setKeys]
@[simp] theorem State.setKeys_disp (s : State) (k : BitVec 16) : (s.setKeys k).disp = s.disp := by simp only [State.setKeys]
@[simp] theorem State.setKeys_key (s : State) (k : BitVec 16) : (s.setKeys k).key = Vector.ofFn fun j : Fin 16 => k.getLsbD j.val := rfl
@[simp] theorem State.setKeys_redraw (s : State) (k : BitVec 16) : (s.setKeys k).redraw = s.redraw := by simp only [State.setKeys]
@[simp] theorem State.setKeys_beep (s : State) (k : BitVec 16) : (s.setKeys k).beep = s.beep := by simp only [State.setKeys]
@[simp] theorem State.setKeys_status (s : State) (k : BitVec 16) : (s.setKeys k).status = s.status := by simp only [State.setKeys]
@[simp] theorem State.setKeys_cause (s : State) (k : BitVec 16) : (s.setKeys k).cause = s.cause := by simp only [State.setKeys]
@[simp] theorem State.setKeys_font (s : State) (k : BitVec 16) : (s.setKeys k).font = s.font := by simp only [State.setKeys]
@[simp] theorem State.setKeys_rnd (s : State) (k : BitVec 16) : (s.setKeys k).rnd = s.rnd := by simp only [State.setKeys]
@[simp] theorem State.setKeys_rndIdx (s : State) (k : BitVec 16) : (s.setKeys k).rndIdx = s.rndIdx := by simp only [State.setKeys]

end Sys2Proof.Machine
end

