-- ==== Sys2Proof/Laws/Memory.lean ====
section
/-! SUPPORT. Memory: a read after a write, and the canonical form kept by every memory operation
(20_memory.md R52, R53; log entry 6). -/

-- One proof at a time: the joined compile then needs a bounded number of threads, whatever the machine.
set_option Elab.async false

namespace Sys2Proof.Machine

variable {f : Font}

/-- Nothing below the lower bound of a canonical list is listed in it. -/
theorem Memory.read_below {lo a : Nat} {m : Memory} (h : Memory.wfFrom f lo m = true) (ha : a < lo) :
    m.read f a = Memory.initial f a := by
  induction m generalizing lo with
  | nil => rfl
  | cons c rest ih =>
    obtain ⟨b, w⟩ := c
    simp only [Memory.wfFrom, Bool.and_eq_true, decide_eq_true_eq] at h
    have hne : a ≠ b := by omega
    simp only [Memory.read, if_neg hne]
    exact ih h.2 (by omega)

/-- A lower bound may be lowered. -/
theorem Memory.wfFrom_mono {lo lo' : Nat} {m : Memory} (h : Memory.wfFrom f lo m = true) (hl : lo' ≤ lo) :
    Memory.wfFrom f lo' m = true := by
  cases m with
  | nil => rfl
  | cons c rest =>
    obtain ⟨b, w⟩ := c
    simp only [Memory.wfFrom, Bool.and_eq_true, decide_eq_true_eq] at h ⊢
    exact ⟨⟨⟨by omega, h.1.1.2⟩, h.1.2⟩, h.2⟩

/-- `put` keeps the canonical form. -/
theorem Memory.put_wfFrom {lo a : Nat} {m : Memory} (v : Byte) (h : Memory.wfFrom f lo m = true)
    (hlo : lo ≤ a) (ha : a < 4096) : Memory.wfFrom f lo (m.put f a v) = true := by
  induction m generalizing lo with
  | nil =>
    by_cases hv : v = Memory.initial f a
    · simp [Memory.put, Memory.wfFrom, hv]
    · simp [Memory.put, Memory.wfFrom, hv, hlo, ha]
  | cons c rest ih =>
    obtain ⟨b, w⟩ := c
    have h0 := h
    simp only [Memory.wfFrom, Bool.and_eq_true, decide_eq_true_eq] at h
    simp only [Memory.put]
    split
    · split
      · exact h0
      · rename_i hab hv
        simp only [Memory.wfFrom, Bool.and_eq_true, decide_eq_true_eq]
        exact ⟨⟨⟨hlo, ha⟩, hv⟩, ⟨⟨by omega, h.1.1.2⟩, h.1.2⟩, h.2⟩
    · split
      · rename_i _ hab
        subst hab
        split
        · exact Memory.wfFrom_mono h.2 (by omega)
        · rename_i hv
          simp only [Memory.wfFrom, Bool.and_eq_true, decide_eq_true_eq]
          exact ⟨⟨⟨hlo, ha⟩, hv⟩, h.2⟩
      · simp only [Memory.wfFrom, Bool.and_eq_true, decide_eq_true_eq]
        exact ⟨h.1, ih h.2 (by omega)⟩

/-- `put` leaves every other address alone, whatever the form of the list. -/
theorem Memory.read_put_ne {m : Memory} {a a' : Nat} (v : Byte) (hne : a' ≠ a) :
    (m.put f a v).read f a' = m.read f a' := by
  induction m with
  | nil => by_cases hv : v = Memory.initial f a <;> simp [Memory.put, Memory.read, hv, hne]
  | cons c rest ih =>
    obtain ⟨b, w⟩ := c
    simp only [Memory.put]
    split
    · split <;> simp [Memory.read, hne]
    · split
      · rename_i _ hab
        subst hab
        split <;> simp [Memory.read, hne]
      · simp only [Memory.read, ih]

/-- `put` sets the address it names. -/
theorem Memory.read_put_self {lo : Nat} {m : Memory} {a : Nat} (v : Byte) (h : Memory.wfFrom f lo m = true) :
    (m.put f a v).read f a = v := by
  induction m generalizing lo with
  | nil => by_cases hv : v = Memory.initial f a <;> simp [Memory.put, Memory.read, hv]
  | cons c rest ih =>
    obtain ⟨b, w⟩ := c
    have h0 := h
    simp only [Memory.wfFrom, Bool.and_eq_true, decide_eq_true_eq] at h
    simp only [Memory.put]
    split
    · rename_i hab
      split
      · rename_i hv
        have hbelow : Memory.wfFrom f b ((b, w) :: rest) = true := by
          simp only [Memory.wfFrom, Bool.and_eq_true, decide_eq_true_eq]
          exact ⟨⟨⟨Nat.le_refl b, h.1.1.2⟩, h.1.2⟩, h.2⟩
        rw [Memory.read_below hbelow hab, hv]
      · simp [Memory.read]
    · split
      · rename_i _ hab
        subst hab
        split
        · rename_i hv
          rw [Memory.read_below h.2 (by omega), hv]
        · simp [Memory.read]
      · rename_i hlt hab
        simp only [Memory.read, if_neg hab]
        exact ih h.2

/-- A write keeps the canonical form. -/
theorem Memory.write_wf {m : Memory} (a : Nat) (v : Byte) (h : m.wf f = true) : (m.write f a v).wf f = true := by
  unfold Memory.write
  split
  · rename_i ha
    exact Memory.put_wfFrom v h (Nat.zero_le a) ha
  · exact h

/-- A read after a write to the same address gives the value written. -/
theorem Memory.read_write_self {m : Memory} {a : Nat} (v : Byte) (h : m.wf f = true) (ha : a < 4096) :
    (m.write f a v).read f a = v := by
  simp only [Memory.write, Config.memSize, if_pos ha]
  exact Memory.read_put_self v h

/-- A write leaves every other address alone. -/
theorem Memory.read_write_ne {m : Memory} {a a' : Nat} (v : Byte) (hne : a' ≠ a) :
    (m.write f a v).read f a' = m.read f a' := by
  unfold Memory.write
  split
  · exact Memory.read_put_ne v hne
  · rfl

/-- A block write keeps the canonical form. -/
theorem Memory.writeBytes_wf {m : Memory} (a : Nat) (bs : List Byte) (h : m.wf f = true) :
    (m.writeBytes f a bs).wf f = true := by
  induction bs generalizing m a with
  | nil => exact h
  | cons b rest ih => exact ih (a + 1) (Memory.write_wf a b h)

/-- A block write leaves every address outside the block alone. -/
theorem Memory.read_writeBytes_outside {m : Memory} {a a' : Nat} (bs : List Byte)
    (ho : a' < a ∨ a + bs.length ≤ a') : (m.writeBytes f a bs).read f a' = m.read f a' := by
  induction bs generalizing m a with
  | nil => rfl
  | cons b rest ih =>
    simp only [List.length_cons] at ho
    rw [Memory.writeBytes, ih (by omega), Memory.read_write_ne b (by omega)]

/-- A block write puts byte `j` of the block at `a + j`. -/
theorem Memory.read_writeBytes_inside {m : Memory} {a : Nat} (bs : List Byte) (j : Nat) (hj : j < bs.length)
    (h : m.wf f = true) (ha : a + bs.length ≤ 4096) : (m.writeBytes f a bs).read f (a + j) = bs[j] := by
  induction bs generalizing m a j with
  | nil => simp at hj
  | cons b rest ih =>
    simp only [List.length_cons] at hj ha
    cases j with
    | zero =>
      change (Memory.writeBytes f (m.write f a b) (a + 1) rest).read f a = b
      rw [Memory.read_writeBytes_outside rest (by omega), Memory.read_write_self b h (by omega)]
    | succ j =>
      have := ih (m := m.write f a b) (a := a + 1) j (by omega) (Memory.write_wf a b h) (by omega)
      rw [Memory.writeBytes, show a + (j + 1) = a + 1 + j by omega, this]
      rfl

/-- Reset memory is canonical. -/
theorem reset_mem_wf : State.reset.mem.wf f = true := rfl

end Sys2Proof.Machine
end

