-- ==== Sys2Proof/Laws/Ops.lean ====
section
/-! SUPPORT. What each shared operation can do, said once: registers, block moves, the range check, the draw
loop's display writes, the key scan, the timers, the end of a step, and the step itself. -/

-- One proof at a time: the joined compile then needs a bounded number of threads, whatever the machine.
set_option Elab.async false

namespace Sys2Proof.Machine

/-! ## Registers -/

@[simp] theorem State.reg_eq (s : State) (x : Reg) : s.reg x = s.v[x] := rfl

theorem State.readByte_eq (s : State) (a : Nat) : s.readByte a = s.mem.read s.font a := rfl

theorem State.memWf_eq (s : State) : s.memWf = s.mem.wf s.font := rfl

/-- Two states of one machine with the same memory read the same bytes. -/
theorem State.readByte_congr {s t : State} (hm : t.mem = s.mem) (hf : t.font = s.font) : t.readByte = s.readByte := by
  funext a
  rw [State.readByte_eq, State.readByte_eq, hm, hf]

/-- Canonical form is a property of the memory and the table alone. -/
theorem State.memWf_congr {s t : State} (hm : t.mem = s.mem) (hf : t.font = s.font) : t.memWf = s.memWf := by
  rw [State.memWf_eq, State.memWf_eq, hm, hf]

@[simp] theorem State.keyDown_eq (s : State) (k : Reg) : s.keyDown k = s.key[k] := rfl

/-- A register file write reads back at its own number and leaves the others. -/
theorem reg_set (v : Vector Byte 16) (x k : Reg) (b : Byte) :
    (v.set x b)[k] = if k = x then b else v[k] := by
  simp only [Fin.getElem_fin, Vector.getElem_set, Fin.ext_iff, eq_comm]

/-- The result and flag writes of a flag-writing operation: VF holds the flag, the destination the result
unless it is VF (42_alu.md R106). -/
theorem reg_set_flag (v : Vector Byte 16) (x k : Reg) (r f : Byte) :
    ((v.set x r).set vf f)[k] = if k = vf then f else if k = x then r else v[k] := by
  rw [reg_set, reg_set]

/-! ## Bytes of the machine's memory (20_memory.md R52, R53) -/

theorem State.memWf_writeByte {s : State} (a : Nat) (b : Byte) (h : s.memWf = true) :
    (s.writeByte a b).memWf = true := Memory.write_wf a b h

theorem State.readByte_writeByte_self {s : State} {a : Nat} (b : Byte) (h : s.memWf = true) (ha : a < 4096) :
    (s.writeByte a b).readByte a = b := Memory.read_write_self b h ha

theorem State.readByte_writeByte_ne {s : State} {a a' : Nat} (b : Byte) (hne : a' ≠ a) :
    (s.writeByte a b).readByte a' = s.readByte a' := Memory.read_write_ne b hne

theorem State.memWf_writeBytes {s : State} (a : Nat) (bs : List Byte) (h : s.memWf = true) :
    (s.writeBytes a bs).memWf = true := Memory.writeBytes_wf a bs h

theorem State.readByte_writeBytes_outside {s : State} {a a' : Nat} (bs : List Byte)
    (ho : a' < a ∨ a + bs.length ≤ a') : (s.writeBytes a bs).readByte a' = s.readByte a' :=
  Memory.read_writeBytes_outside bs ho

theorem State.readByte_writeBytes_inside {s : State} {a : Nat} (bs : List Byte) (j : Nat) (hj : j < bs.length)
    (h : s.memWf = true) (ha : a + bs.length ≤ 4096) : (s.writeBytes a bs).readByte (a + j) = bs[j] :=
  Memory.read_writeBytes_inside bs j hj h ha

/-! ## Block moves (43_index_memory.md R125, R126) -/

/-- The register load writes registers alone. -/
theorem State.loadRegs_frame (base n : Nat) (s : State) :
    State.loadRegs base n s = { s with v := (State.loadRegs base n s).v } := by
  induction n with
  | zero => rfl
  | succ n ih =>
    simp only [State.loadRegs]
    rw [ih]
    rfl

/-- After the register load the first `n` registers hold the block, the others their old values. -/
theorem State.loadRegs_reg (base n : Nat) (s : State) (hn : n ≤ 16) (k : Reg) :
    (State.loadRegs base n s).v[k] = if k.val < n then s.readByte (base + k.val) else s.v[k] := by
  induction n with
  | zero => simp [State.loadRegs]
  | succ n ih =>
    have hm : (State.loadRegs base n s).readByte = s.readByte := by rw [State.loadRegs_frame]; rfl
    simp only [State.loadRegs, State.setReg_v, reg_set, hm, ih (by omega)]
    have hval : (Fin.ofNat 16 n).val = n := Nat.mod_eq_of_lt (by omega)
    by_cases hk : k.val = n
    · have : k = Fin.ofNat 16 n := Fin.ext (by rw [hval]; exact hk)
      rw [if_pos this, if_pos (by omega), hk]
    · have : k ≠ Fin.ofNat 16 n := fun h => hk (by rw [h, hval])
      rw [if_neg this]
      by_cases hlt : k.val < n
      · rw [if_pos hlt, if_pos (by omega)]
      · rw [if_neg hlt, if_neg (by omega)]

/-- The register dump writes memory alone. -/
theorem State.storeRegs_frame (base n : Nat) (s : State) :
    State.storeRegs base n s = { s with mem := (State.storeRegs base n s).mem } := by
  induction n with
  | zero => rfl
  | succ n ih =>
    simp only [State.storeRegs]
    rw [ih]
    rfl

/-- The register dump keeps the canonical form. -/
theorem State.storeRegs_wf (base n : Nat) (s : State) (h : s.memWf = true) :
    (State.storeRegs base n s).memWf = true := by
  induction n with
  | zero => exact h
  | succ n ih => exact State.memWf_writeByte _ _ ih

/-- The register dump leaves every address outside its block alone. -/
theorem State.storeRegs_outside (base n : Nat) (s : State) (a : Nat) (ha : a < base ∨ base + n ≤ a) :
    (State.storeRegs base n s).readByte a = s.readByte a := by
  induction n with
  | zero => rfl
  | succ n ih =>
    simp only [State.storeRegs]
    rw [State.readByte_writeByte_ne _ (by omega), ih (by omega)]

/-- After the register dump the block holds the first `n` registers. -/
theorem State.storeRegs_inside (base n : Nat) (s : State) (hn : n ≤ 16) (h : s.memWf = true)
    (hb : base + n ≤ 4096) (k : Reg) (hk : k.val < n) :
    (State.storeRegs base n s).readByte (base + k.val) = s.v[k] := by
  induction n with
  | zero => omega
  | succ n ih =>
    have hv : (State.storeRegs base n s).v = s.v := by rw [State.storeRegs_frame]
    have hval : (Fin.ofNat 16 n).val = n := Nat.mod_eq_of_lt (by omega)
    simp only [State.storeRegs, State.reg_eq, hv]
    by_cases hkn : k.val = n
    · have hfin : Fin.ofNat 16 n = k := Fin.ext (by rw [hval, hkn])
      subst hkn
      rw [hfin, State.readByte_writeByte_self _ (State.storeRegs_wf base k.val s h) (by omega)]
    · rw [State.readByte_writeByte_ne _ (by omega), ih (by omega) (by omega) (by omega)]

/-! ## The range check (20_memory.md R47) -/

/-- Out of range, the range check is fatal and nothing else (43_index_memory.md R127). -/
theorem withDataRange_outOfRange {s body : State} {kMax : Nat} (h : 4096 ≤ s.i.toNat + kMax) :
    withDataRange s kMax body = .next (s.raiseFatal .dataAddrOutOfRange) := if_pos h

/-- In range, the range check goes on to the body. -/
theorem withDataRange_inRange {s body : State} {kMax : Nat} (h : s.i.toNat + kMax < 4096) :
    withDataRange s kMax body = .next body := if_neg (Nat.not_le.mpr h)

/-- The range check answers a next state in both cases, and which is decided by the highest address. -/
theorem withDataRange_cases (s body : State) (kMax : Nat) :
    (4096 ≤ s.i.toNat + kMax ∧ withDataRange s kMax body = .next (s.raiseFatal .dataAddrOutOfRange)) ∨
    (s.i.toNat + kMax < 4096 ∧ withDataRange s kMax body = .next body) := by
  by_cases h : 4096 ≤ s.i.toNat + kMax
  · exact .inl ⟨h, withDataRange_outOfRange h⟩
  · exact .inr ⟨by omega, withDataRange_inRange (by omega)⟩

/-! ## The display (44_display.md R131) -/

/-- Flipping one pixel inverts it and leaves every other pixel. -/
theorem Display.pixel_flip (d : Display) (x px : Fin 64) (y py : Fin 32) :
    (d.flip x y).pixel px py = (d.pixel px py ^^ decide (px = x ∧ py = y)) := by
  unfold Display.flip Display.pixel
  simp only [Fin.getElem_fin, Vector.getElem_set, Fin.ext_iff]
  by_cases hx : x.val = px.val
  · by_cases hy : y.val = py.val
    · simp [hx, hy]
    · simp [hx, hy, eq_comm (a := py.val)]
  · simp [hx, eq_comm (a := px.val)]

/-- A cleared display has no pixel set. -/
@[simp] theorem Display.pixel_blank (px : Fin 64) (py : Fin 32) : Display.blank.pixel px py = false := by
  simp [Display.blank, Display.pixel]

/-! ## The key scan (45_input.md R143) -/

/-- The scan finds a key exactly when it is pressed and no lower one is. -/
theorem State.firstKey_some (s : State) (k : Reg) :
    s.firstKey = some k ↔ s.key[k] = true ∧ ∀ j : Reg, j < k → s.key[j] = false := by
  unfold State.firstKey
  rw [List.find?_eq_some_iff_getElem]
  simp only [State.keyDown_eq, List.length_finRange, List.getElem_finRange,
    Bool.not_eq_eq_eq_not, Bool.not_true]
  constructor
  · rintro ⟨hk, i, hi, rfl, hlow⟩
    exact ⟨hk, fun j hj => hlow j.val hj⟩
  · rintro ⟨hk, hlow⟩
    exact ⟨hk, k.val, k.isLt, rfl, fun j hj => hlow ⟨j, by omega⟩ hj⟩

/-- The scan finds nothing exactly when no key is pressed. -/
theorem State.firstKey_none (s : State) : s.firstKey = none ↔ ∀ k : Reg, s.key[k] = false := by
  simp [State.firstKey, List.find?_eq_none]

/-! ## The timers and the end of a step -/

/-- A timer goes down by one and stops at 0 (46_timers.md R144). -/
theorem decTimer_toNat (t : Byte) : (decTimer t).toNat = t.toNat - 1 := by
  unfold decTimer
  split
  · rename_i h; subst h; rfl
  · rename_i h
    have : t.toNat ≠ 0 := fun h0 => h (BitVec.eq_of_toNat_eq h0)
    rw [BitVec.toNat_sub]
    have := t.isLt
    simp
    omega

/-- The end of a step ticks exactly the running states (40_cycle.md R88). -/
theorem State.endStep_eq (s : State) : s.endStep = if s.status = .halted then s else s.tick := by
  unfold State.endStep
  cases h : s.status <;> simp

/-- The end of a step never changes STATUS. -/
@[simp] theorem State.endStep_status (s : State) : s.endStep.status = s.status := by
  rw [State.endStep_eq]
  split <;> rfl

/-- Starting a step does not change what is fetched. -/
@[simp] theorem State.fetchWord_beginStep (s : State) (r : Byte) :
    (s.beginStep r).fetchWord = s.fetchWord := rfl

/-- Starting a step does not change the fetch check. -/
@[simp] theorem State.fetchOutOfRange_beginStep (s : State) (r : Byte) :
    (s.beginStep r).fetchOutOfRange = s.fetchOutOfRange := rfl

/-- The fetch check as a bound on PC (20_memory.md R48). -/
theorem State.fetchOutOfRange_iff (s : State) : s.fetchOutOfRange = true ↔ 4095 ≤ s.pc.toNat := by
  simp [State.fetchOutOfRange]

/-! ## The step -/

/-- Everything a step can do: nothing when halted, the fetch fault, or one execute phase with its end. -/
theorem stepWith_cases {rnd : Byte} {s t : State} (h : stepWith rnd s = .next t) :
    (s.status = .halted ∧ t = s) ∨
    (s.status = .run ∧ 4095 ≤ s.pc.toNat ∧ t = (s.beginStep rnd).raiseFatal .pcOutOfRange) ∨
    (s.status = .run ∧ s.pc.toNat < 4095 ∧
      ∃ u, exec (decode s.fetchWord) (s.beginStep rnd) = .next u ∧ t = u.endStep) := by
  unfold stepWith at h
  cases hs : s.status with
  | halted =>
    rw [hs] at h
    exact .inl ⟨rfl, (Host.Outcome.next.inj h).symm⟩
  | run =>
    rw [hs] at h
    refine .inr ?_
    by_cases hf : 4095 ≤ s.pc.toNat
    · refine .inl ⟨rfl, hf, ?_⟩
      have hf' : (s.beginStep rnd).fetchOutOfRange = true := by
        simpa using (State.fetchOutOfRange_iff s).mpr hf
      simp only [hf', if_true] at h
      exact (Host.Outcome.next.inj h).symm
    · refine .inr ⟨rfl, by omega, ?_⟩
      have hf' : (s.beginStep rnd).fetchOutOfRange = false := by
        rw [State.fetchOutOfRange_beginStep, Bool.eq_false_iff]
        exact fun h' => hf ((State.fetchOutOfRange_iff s).mp h')
      simp only [hf', State.fetchWord_beginStep, executeTick] at h
      cases he : exec (decode s.fetchWord) (s.beginStep rnd) with
      | next u =>
        rw [he] at h
        exact ⟨u, rfl, (Host.Outcome.next.inj h).symm⟩
      | fault f => cases f
      | refused r => rw [he] at h; simp at h

/-- A running step in range is one execute phase with its end. -/
theorem stepWith_inRange {rnd : Byte} {s u : State} (hs : s.status = .run) (hp : s.pc.toNat < 4095)
    (he : exec (decode s.fetchWord) (s.beginStep rnd) = .next u) : stepWith rnd s = .next u.endStep := by
  have hf' : (s.beginStep rnd).fetchOutOfRange = false := by
    rw [State.fetchOutOfRange_beginStep, Bool.eq_false_iff]
    intro h'
    have := (State.fetchOutOfRange_iff s).mp h'
    omega
  simp [stepWith, hs, hf', executeTick, he]

end Sys2Proof.Machine
end

