-- ==== Sys2Proof/Laws/Commands.lean ====
section
/-! SUPPORT. The host's commands: what `load`, `set_keys` and `reset` leave unchanged, and the two outcomes of a
command in the host's hands (70_reset_and_hazards.md R171 to R175). -/

-- One proof at a time: the joined compile then needs a bounded number of threads, whatever the machine.
set_option Elab.async false

namespace Sys2Proof.Machine

theorem State.load_fits (s : State) {bytes : List Byte} (h : bytes.length ≤ 3584) :
    s.load bytes = (s.writeBytes 0x200 bytes, .ok) := if_neg (by simp only [Config.progMax]; omega)

theorem State.load_tooLarge (s : State) {bytes : List Byte} (h : 3584 < bytes.length) :
    s.load bytes = (s, .tooLarge) := if_pos h

/-- A load writes memory alone. -/
theorem State.load_frame (s : State) (bytes : List Byte) :
    (s.load bytes).1 = { s with mem := (s.load bytes).1.mem } := by
  unfold State.load
  split <;> rfl

/-- A load keeps the canonical form of memory. -/
theorem State.load_memWf {s : State} (bytes : List Byte) (h : s.memWf = true) : (s.load bytes).1.memWf = true := by
  unfold State.load
  split
  · exact h
  · exact State.memWf_writeBytes _ _ h

/-- `set_keys` writes the key latch alone. -/
theorem State.setKeys_frame (s : State) (k : BitVec 16) : s.setKeys k = { s with key := (s.setKeys k).key } := rfl

@[simp] theorem State.resetFrom_status (s : State) : s.resetFrom.status = .run := rfl
@[simp] theorem State.resetFrom_font (s : State) : s.resetFrom.font = s.font := rfl
@[simp] theorem State.resetFrom_rndIdx (s : State) : s.resetFrom.rndIdx = s.rndIdx := rfl

/-- Everything a command other than a `step` can do to a machine that has been reset. -/
theorem issue_live_cases {c : Command} {p : BootPhase} {s : State} {h : Session} {r : Reply}
    (hc : ∀ rnd, c ≠ .step rnd) (hi : issue c (.live p s) = .next (h, r)) :
    (c = .reset ∧ h = .live .fresh s.resetFrom) ∨
    (∃ bytes, c = .load bytes ∧ p = .fresh ∧ h = .live (s.load bytes).2.phase (s.load bytes).1) ∨
    (∃ k, c = .setKeys k ∧ h = .live p (s.setKeys k)) := by
  cases c with
  | reset => exact .inl ⟨rfl, by cases hi; rfl⟩
  | load bytes => cases p <;> cases hi; exact .inr (.inl ⟨bytes, rfl, rfl, rfl⟩)
  | setKeys k => cases hi; exact .inr (.inr ⟨k, rfl, rfl⟩)
  | step rnd => exact absurd rfl (hc rnd)

/-- A step the host may issue is a step of the machine. -/
theorem issueRun_next {rnd : Byte} {s t : State} (h : stepWith rnd s = .next t) :
    issueRun rnd s = .next (.live .stepping t, .nothing) := by
  simp only [issueRun, h]

end Sys2Proof.Machine
end

