-- ==== Sys2Proof/Laws/Decode.lean ====
section
/-! SUPPORT. The fields of a word as numbers, and the fields of the words the encoder builds
(30_encoding.md R66). -/

-- One proof at a time: the joined compile then needs a bounded number of threads, whatever the machine.
set_option Elab.async false

namespace Sys2Proof

/-! ## Fields as numbers -/

theorem fieldClass_toNat (w : Word) : (fieldClass w).toNat = w.toNat / 4096 := by
  have := w.isLt
  simp only [fieldClass, BitVec.extractLsb'_toNat, Nat.shiftRight_eq_div_pow]
  omega

theorem fieldX_val (w : Word) : (fieldX w).val = w.toNat / 256 % 16 := by
  change (w.extractLsb' 8 4).toNat = _
  simp only [BitVec.extractLsb'_toNat, Nat.shiftRight_eq_div_pow]

theorem fieldY_val (w : Word) : (fieldY w).val = w.toNat / 16 % 16 := by
  change (w.extractLsb' 4 4).toNat = _
  simp only [BitVec.extractLsb'_toNat, Nat.shiftRight_eq_div_pow]

theorem fieldN_toNat (w : Word) : (fieldN w).toNat = w.toNat % 16 := by
  simp only [fieldN, BitVec.extractLsb'_toNat, Nat.shiftRight_zero]

theorem fieldKK_toNat (w : Word) : (fieldKK w).toNat = w.toNat % 256 := by
  simp only [fieldKK, BitVec.extractLsb'_toNat, Nat.shiftRight_zero]

theorem fieldNNN_toNat (w : Word) : (fieldNNN w).toNat = w.toNat % 4096 := by
  simp only [fieldNNN, BitVec.extractLsb'_toNat, Nat.shiftRight_zero]

/-! ## The encoder's words as numbers -/

/-- Appending is shifting up and adding. -/
theorem append_toNat {m n : Nat} (a : BitVec m) (b : BitVec n) :
    (a ++ b).toNat = a.toNat * 2 ^ n + b.toNat := by
  rw [BitVec.toNat_append, Nat.shiftLeft_eq, Nat.mul_comm, ← Nat.two_pow_add_eq_or_of_lt b.isLt]

theorem wordA_toNat (c : Nibble) (nnn : Addr12) : (wordA c nnn).toNat = c.toNat * 4096 + nnn.toNat :=
  append_toNat c nnn

theorem wordXK_toNat (c : Nibble) (x : Reg) (kk : Byte) :
    (wordXK c x kk).toNat = c.toNat * 4096 + x.val * 256 + kk.toNat := by
  change (c ++ BitVec.ofFin (w := 4) x ++ kk).toNat = _
  rw [append_toNat, append_toNat]
  change (_ * _ + x.val) * _ + _ = _
  omega

theorem wordXYN_toNat (c : Nibble) (x y : Reg) (n : Nibble) :
    (wordXYN c x y n).toNat = c.toNat * 4096 + x.val * 256 + y.val * 16 + n.toNat := by
  change (c ++ BitVec.ofFin (w := 4) x ++ BitVec.ofFin (w := 4) y ++ n).toNat = _
  rw [append_toNat, append_toNat, append_toNat]
  change ((_ * _ + x.val) * _ + y.val) * _ + _ = _
  omega

/-! ## The fields the encoder put in -/

@[simp] theorem fieldClass_wordA (c : Nibble) (nnn : Addr12) : fieldClass (wordA c nnn) = c := by
  apply BitVec.eq_of_toNat_eq
  have := nnn.isLt
  rw [fieldClass_toNat, wordA_toNat]
  omega

@[simp] theorem fieldNNN_wordA (c : Nibble) (nnn : Addr12) : fieldNNN (wordA c nnn) = nnn := by
  apply BitVec.eq_of_toNat_eq
  have := nnn.isLt
  rw [fieldNNN_toNat, wordA_toNat]
  omega

@[simp] theorem fieldClass_wordXK (c : Nibble) (x : Reg) (kk : Byte) : fieldClass (wordXK c x kk) = c := by
  apply BitVec.eq_of_toNat_eq
  have := kk.isLt
  rw [fieldClass_toNat, wordXK_toNat]
  omega

@[simp] theorem fieldX_wordXK (c : Nibble) (x : Reg) (kk : Byte) : fieldX (wordXK c x kk) = x := by
  apply Fin.ext
  have := kk.isLt
  rw [fieldX_val, wordXK_toNat]
  omega

@[simp] theorem fieldKK_wordXK (c : Nibble) (x : Reg) (kk : Byte) : fieldKK (wordXK c x kk) = kk := by
  apply BitVec.eq_of_toNat_eq
  have := kk.isLt
  rw [fieldKK_toNat, wordXK_toNat]
  omega

@[simp] theorem fieldClass_wordXYN (c : Nibble) (x y : Reg) (n : Nibble) :
    fieldClass (wordXYN c x y n) = c := by
  apply BitVec.eq_of_toNat_eq
  have := n.isLt
  rw [fieldClass_toNat, wordXYN_toNat]
  omega

@[simp] theorem fieldX_wordXYN (c : Nibble) (x y : Reg) (n : Nibble) : fieldX (wordXYN c x y n) = x := by
  apply Fin.ext
  have := n.isLt
  rw [fieldX_val, wordXYN_toNat]
  omega

@[simp] theorem fieldY_wordXYN (c : Nibble) (x y : Reg) (n : Nibble) : fieldY (wordXYN c x y n) = y := by
  apply Fin.ext
  have := n.isLt
  rw [fieldY_val, wordXYN_toNat]
  omega

@[simp] theorem fieldN_wordXYN (c : Nibble) (x y : Reg) (n : Nibble) : fieldN (wordXYN c x y n) = n := by
  apply BitVec.eq_of_toNat_eq
  have := n.isLt
  rw [fieldN_toNat, wordXYN_toNat]
  omega

/-! ## A word as its fields -/

/-- A word is its class and address. -/
theorem wordA_fields (w : Word) : wordA (fieldClass w) (fieldNNN w) = w := by
  apply BitVec.eq_of_toNat_eq
  rw [wordA_toNat, fieldClass_toNat, fieldNNN_toNat]
  omega

/-- A word is its class, X and low byte. -/
theorem wordXK_fields (w : Word) : wordXK (fieldClass w) (fieldX w) (fieldKK w) = w := by
  apply BitVec.eq_of_toNat_eq
  rw [wordXK_toNat, fieldClass_toNat, fieldX_val, fieldKK_toNat]
  omega

/-- A word is its class, X, Y and low nibble. -/
theorem wordXYN_fields (w : Word) : wordXYN (fieldClass w) (fieldX w) (fieldY w) (fieldN w) = w := by
  apply BitVec.eq_of_toNat_eq
  rw [wordXYN_toNat, fieldClass_toNat, fieldX_val, fieldY_val, fieldN_toNat]
  omega

/-- The two bytes of a word in memory order make the word again (20_memory.md R49). -/
@[simp] theorem wordOfBytes_bytesOfWord (w : Word) :
    wordOfBytes (w.extractLsb' 8 8) (w.extractLsb' 0 8) = w := by
  apply BitVec.eq_of_toNat_eq
  have := w.isLt
  change (w.extractLsb' 8 8 ++ w.extractLsb' 0 8).toNat = _
  rw [append_toNat]
  simp only [BitVec.extractLsb'_toNat, Nat.shiftRight_eq_div_pow]
  omega

end Sys2Proof
end

