-- ==== Sys2Proof/Laws/Draw.lean ====
section
/-! SUPPORT. The draw loop of 44_display.md R131 read pixel by pixel: which pixels it flips and when it reports
a collision. The eight columns and at most fifteen rows of a sprite are distinct, so no pixel is flipped
twice (R133). -/

-- One proof at a time: the joined compile then needs a bounded number of threads, whatever the machine.
set_option Elab.async false

namespace Sys2Proof.Machine

/-- One of the first `n` columns of a sprite row has its bit set and lands on column `px`. -/
def RowCovers (x0 b : Byte) (n : Nat) (px : Fin 64) : Prop :=
  ∃ c, c < n ∧ spriteBit b c = true ∧ px = drawColumn x0 c

/-- One of the first `n` rows of the sprite at `base` covers the pixel. -/
def RowsCover (rd : Nat → Byte) (base : Nat) (x0 y0 : Byte) (n : Nat) (px : Fin 64) (py : Fin 32) : Prop :=
  ∃ r, r < n ∧ RowCovers x0 (rd (base + r)) 8 px ∧ py = drawLine y0 r

/-- Two column offsets below 64 that wrap to one column are equal. -/
theorem drawColumn_inj {x0 : Byte} {c c' : Nat} (hc : c < 64) (hc' : c' < 64)
    (h : drawColumn x0 c = drawColumn x0 c') : c = c' := by
  have h' : (x0.toNat + c) % 64 = (x0.toNat + c') % 64 := congrArg Fin.val h
  omega

/-- Two row offsets below 32 that wrap to one row are equal. -/
theorem drawLine_inj {y0 : Byte} {r r' : Nat} (hr : r < 32) (hr' : r' < 32)
    (h : drawLine y0 r = drawLine y0 r') : r = r' := by
  have h' : (y0.toNat + r) % 32 = (y0.toNat + r') % 32 := congrArg Fin.val h
  omega

/-- Flipping a pixel, as an equivalence. -/
theorem Display.pixel_flip_iff (d : Display) (x px : Fin 64) (y py : Fin 32) :
    (d.flip x y).pixel px py = true ↔ ¬ (d.pixel px py = true ↔ (px = x ∧ py = y)) := by
  rw [Display.pixel_flip]
  by_cases h : px = x ∧ py = y <;> simp [h]

/-- Flipping first where `A` holds and then where `B` holds is flipping where either does, if they exclude
each other. -/
theorem flip_then_flip {P A B : Prop} (h : B → ¬ A) : ¬ ((¬ (P ↔ A)) ↔ B) ↔ ¬ (P ↔ (A ∨ B)) := by
  by_cases hB : B
  · have hA := h hB
    simp [hA, hB]
  · simp [hB]

/-- The first `n` columns of a row flip exactly the pixels they cover. -/
theorem drawRow_pixel (x0 y0 b : Byte) (r n : Nat) (hn : n ≤ 8) (acc : Display × Bool) (px : Fin 64)
    (py : Fin 32) :
    (drawRow x0 y0 b r n acc).1.pixel px py = true ↔
      ¬ (acc.1.pixel px py = true ↔ (RowCovers x0 b n px ∧ py = drawLine y0 r)) := by
  induction n with
  | zero => simp [drawRow, RowCovers]
  | succ n ih =>
    have ih := ih (by omega)
    have hsplit : RowCovers x0 b (n + 1) px ↔
        RowCovers x0 b n px ∨ (spriteBit b n = true ∧ px = drawColumn x0 n) := by
      unfold RowCovers
      constructor
      · rintro ⟨c, hc, hb⟩
        by_cases hcn : c = n
        · exact .inr (hcn ▸ hb)
        · exact .inl ⟨c, by omega, hb⟩
      · rintro (⟨c, hc, hb⟩ | hb)
        · exact ⟨c, by omega, hb⟩
        · exact ⟨n, by omega, hb⟩
    have hdisjoint : px = drawColumn x0 n → ¬ RowCovers x0 b n px := by
      rintro rfl ⟨c, hc, -, he⟩
      have := drawColumn_inj (by omega) (by omega) he
      omega
    simp only [drawRow, drawBit]
    split
    · rename_i hb
      rw [Display.pixel_flip_iff, ih, hsplit, flip_then_flip fun hB hA => hdisjoint hB.1 hA.1]
      simp only [hb, true_and, or_and_right]
    · rename_i hb
      rw [ih, hsplit]
      simp [hb]

/-- A row reports a collision exactly when it did before or a pixel it covers was set. -/
theorem drawRow_collision (x0 y0 b : Byte) (r n : Nat) (hn : n ≤ 8) (acc : Display × Bool) :
    (drawRow x0 y0 b r n acc).2 = true ↔
      (acc.2 = true ∨ ∃ px, RowCovers x0 b n px ∧ acc.1.pixel px (drawLine y0 r) = true) := by
  induction n with
  | zero => simp [drawRow, RowCovers]
  | succ n ih =>
    have ih := ih (by omega)
    have hpix := drawRow_pixel x0 y0 b r n (by omega) acc (drawColumn x0 n) (drawLine y0 r)
    have hnew : ¬ RowCovers x0 b n (drawColumn x0 n) := by
      rintro ⟨c, hc, -, he⟩
      have := drawColumn_inj (by omega) (by omega) he
      omega
    simp only [drawRow, drawBit]
    split
    · rename_i hb
      simp only [Bool.or_eq_true, ih, hpix, hnew, false_and, iff_false, not_not]
      constructor
      · rintro ((h | ⟨px, ⟨c, hc, hbc, he⟩, hp⟩) | h)
        · exact .inl h
        · exact .inr ⟨px, ⟨c, by omega, hbc, he⟩, hp⟩
        · exact .inr ⟨_, ⟨n, by omega, hb, rfl⟩, h⟩
      · rintro (h | ⟨px, ⟨c, hc, hbc, he⟩, hp⟩)
        · exact .inl (.inl h)
        · by_cases hcn : c = n
          · subst hcn
            exact .inr (he ▸ hp)
          · exact .inl (.inr ⟨px, ⟨c, by omega, hbc, he⟩, hp⟩)
    · rename_i hb
      rw [ih]
      constructor
      · rintro (h | ⟨px, ⟨c, hc, hbc, he⟩, hp⟩)
        · exact .inl h
        · exact .inr ⟨px, ⟨c, by omega, hbc, he⟩, hp⟩
      · rintro (h | ⟨px, ⟨c, hc, hbc, he⟩, hp⟩)
        · exact .inl h
        · by_cases hcn : c = n
          · exact absurd (hcn ▸ hbc) hb
          · exact .inr ⟨px, ⟨c, by omega, hbc, he⟩, hp⟩

/-- The first `n` rows flip exactly the pixels they cover. -/
theorem drawRows_pixel (rd : Nat → Byte) (base : Nat) (x0 y0 : Byte) (n : Nat) (hn : n ≤ 15)
    (acc : Display × Bool) (px : Fin 64) (py : Fin 32) :
    (drawRows rd base x0 y0 n acc).1.pixel px py = true ↔
      ¬ (acc.1.pixel px py = true ↔ RowsCover rd base x0 y0 n px py) := by
  induction n with
  | zero => simp [drawRows, RowsCover]
  | succ n ih =>
    have ih := ih (by omega)
    have hsplit : RowsCover rd base x0 y0 (n + 1) px py ↔
        RowsCover rd base x0 y0 n px py ∨
          (RowCovers x0 (rd (base + n)) 8 px ∧ py = drawLine y0 n) := by
      unfold RowsCover
      constructor
      · rintro ⟨r, hr, hb⟩
        by_cases hrn : r = n
        · exact .inr (hrn ▸ hb)
        · exact .inl ⟨r, by omega, hb⟩
      · rintro (⟨r, hr, hb⟩ | hb)
        · exact ⟨r, by omega, hb⟩
        · exact ⟨n, by omega, hb⟩
    have hdisjoint : py = drawLine y0 n → ¬ RowsCover rd base x0 y0 n px py := by
      rintro rfl ⟨r, hr, -, he⟩
      have := drawLine_inj (by omega) (by omega) he
      omega
    simp only [drawRows]
    rw [drawRow_pixel _ _ _ _ _ (Nat.le_refl 8), ih, hsplit,
      flip_then_flip fun hB => hdisjoint hB.2]

/-- The rows report a collision exactly when there was one before or a pixel they cover was set. -/
theorem drawRows_collision (rd : Nat → Byte) (base : Nat) (x0 y0 : Byte) (n : Nat) (hn : n ≤ 15)
    (acc : Display × Bool) :
    (drawRows rd base x0 y0 n acc).2 = true ↔
      (acc.2 = true ∨ ∃ px py, RowsCover rd base x0 y0 n px py ∧ acc.1.pixel px py = true) := by
  induction n with
  | zero => simp [drawRows, RowsCover]
  | succ n ih =>
    have ih := ih (by omega)
    have hpix : ∀ px, (drawRows rd base x0 y0 n acc).1.pixel px (drawLine y0 n) = true ↔
        acc.1.pixel px (drawLine y0 n) = true := by
      intro px
      have hnew : ¬ RowsCover rd base x0 y0 n px (drawLine y0 n) := by
        rintro ⟨r, hr, -, he⟩
        have := drawLine_inj (by omega) (by omega) he
        omega
      rw [drawRows_pixel _ _ _ _ _ (by omega)]
      simp [hnew]
    simp only [drawRows]
    rw [drawRow_collision _ _ _ _ _ (Nat.le_refl 8), ih]
    simp only [hpix]
    constructor
    · rintro ((h | ⟨px, py, ⟨r, hr, hc⟩, hp⟩) | ⟨px, hc, hp⟩)
      · exact .inl h
      · exact .inr ⟨px, py, ⟨r, by omega, hc⟩, hp⟩
      · exact .inr ⟨px, _, ⟨n, by omega, hc, rfl⟩, hp⟩
    · rintro (h | ⟨px, py, ⟨r, hr, hc, he⟩, hp⟩)
      · exact .inl (.inl h)
      · by_cases hrn : r = n
        · subst hrn
          subst he
          exact .inr ⟨px, hc, hp⟩
        · exact .inl (.inr ⟨px, py, ⟨r, by omega, hc, he⟩, hp⟩)

end Sys2Proof.Machine
end

