-- ==== Sys2Proof/Laws/PerInstr.lean ====
section
/-! SUPPORT. Statements for all instructions, one lemma per constructor. The family `MatchesRow`: the word the
encoder writes for an instruction matches the `match` and `mask` of its row of spec/opcode_table.json. -/

-- One proof at a time: the joined compile then needs a bounded number of threads, whatever the machine.
set_option Elab.async false

namespace Sys2Proof

/-- A bit of a format A word. -/
theorem wordA_bit (c : Nibble) (nnn : Addr12) (k : Nat) :
    (wordA c nnn).getLsbD k = if k < 12 then nnn.getLsbD k else c.getLsbD (k - 12) := by
  change (c ++ nnn).getLsbD k = _
  simp only [BitVec.getLsbD_append]

/-- A bit of a format XK word. -/
theorem wordXK_bit (c : Nibble) (x : Reg) (kk : Byte) (k : Nat) :
    (wordXK c x kk).getLsbD k = if k < 8 then kk.getLsbD k
      else if k - 8 < 4 then (BitVec.ofFin (w := 4) x).getLsbD (k - 8) else c.getLsbD (k - 8 - 4) := by
  change (c ++ BitVec.ofFin (w := 4) x ++ kk).getLsbD k = _
  simp only [BitVec.getLsbD_append]

/-- A bit of a format XYN word. -/
theorem wordXYN_bit (c : Nibble) (x y : Reg) (n : Nibble) (k : Nat) :
    (wordXYN c x y n).getLsbD k = if k < 4 then n.getLsbD k
      else if k - 4 < 4 then (BitVec.ofFin (w := 4) y).getLsbD (k - 4)
      else if k - 4 - 4 < 4 then (BitVec.ofFin (w := 4) x).getLsbD (k - 4 - 4)
      else c.getLsbD (k - 4 - 4 - 4) := by
  change (c ++ BitVec.ofFin (w := 4) x ++ BitVec.ofFin (w := 4) y ++ n).getLsbD k = _
  simp only [BitVec.getLsbD_append]

/-- The mask 0xF000 keeps the class. -/
theorem and_classMask (w : Word) : w &&& 0xF000 = wordA (fieldClass w) 0 := by
  apply BitVec.eq_of_getLsbD_eq
  intro k hk
  rw [BitVec.getLsbD_and, wordA_bit, fieldClass, BitVec.getLsbD_extractLsb']
  interval_cases k <;> simp

/-- The mask 0xF0FF keeps the class and the low byte. -/
theorem and_lowByteMask (w : Word) : w &&& 0xF0FF = wordXK (fieldClass w) 0 (fieldKK w) := by
  apply BitVec.eq_of_getLsbD_eq
  intro k hk
  rw [BitVec.getLsbD_and, wordXK_bit, fieldClass, fieldKK, BitVec.getLsbD_extractLsb', BitVec.getLsbD_extractLsb']
  interval_cases k <;> simp

/-- The mask 0xF00F keeps the class and the low nibble. -/
theorem and_lowNibbleMask (w : Word) : w &&& 0xF00F = wordXYN (fieldClass w) 0 0 (fieldN w) := by
  apply BitVec.eq_of_getLsbD_eq
  intro k hk
  rw [BitVec.getLsbD_and, wordXYN_bit, fieldClass, fieldN, BitVec.getLsbD_extractLsb', BitVec.getLsbD_extractLsb']
  interval_cases k <;> simp

end Sys2Proof

namespace Sys2Proof.Laws.MatchesRow

/-- The encoder's word matches the instruction's row. -/
abbrev Statement (i : Instr) : Prop := encode i &&& i.row.mask = i.row.pattern

theorem cls : Statement .cls := by
  decide

theorem ret : Statement .ret := by
  decide

theorem sys (nnn : Addr12) : Statement (.sys nnn) := by
  simp only [Statement, encode, Instr.row, and_classMask, fieldClass_wordA]
  decide

theorem jp (nnn : Addr12) : Statement (.jp nnn) := by
  simp only [Statement, encode, Instr.row, and_classMask, fieldClass_wordA]
  decide

theorem call (nnn : Addr12) : Statement (.call nnn) := by
  simp only [Statement, encode, Instr.row, and_classMask, fieldClass_wordA]
  decide

theorem seByte (x : Reg) (kk : Byte) : Statement (.seByte x kk) := by
  simp only [Statement, encode, Instr.row, and_classMask, fieldClass_wordXK]
  decide

theorem sneByte (x : Reg) (kk : Byte) : Statement (.sneByte x kk) := by
  simp only [Statement, encode, Instr.row, and_classMask, fieldClass_wordXK]
  decide

theorem seReg (x y : Reg) : Statement (.seReg x y) := by
  simp only [Statement, encode, Instr.row, and_classMask, fieldClass_wordXYN]
  decide

theorem ldByte (x : Reg) (kk : Byte) : Statement (.ldByte x kk) := by
  simp only [Statement, encode, Instr.row, and_classMask, fieldClass_wordXK]
  decide

theorem addByte (x : Reg) (kk : Byte) : Statement (.addByte x kk) := by
  simp only [Statement, encode, Instr.row, and_classMask, fieldClass_wordXK]
  decide

theorem ldReg (x y : Reg) : Statement (.ldReg x y) := by
  simp only [Statement, encode, Instr.row, and_lowNibbleMask, fieldClass_wordXYN, fieldN_wordXYN]
  decide

theorem or (x y : Reg) : Statement (.or x y) := by
  simp only [Statement, encode, Instr.row, and_lowNibbleMask, fieldClass_wordXYN, fieldN_wordXYN]
  decide

theorem and (x y : Reg) : Statement (.and x y) := by
  simp only [Statement, encode, Instr.row, and_lowNibbleMask, fieldClass_wordXYN, fieldN_wordXYN]
  decide

theorem xor (x y : Reg) : Statement (.xor x y) := by
  simp only [Statement, encode, Instr.row, and_lowNibbleMask, fieldClass_wordXYN, fieldN_wordXYN]
  decide

theorem addReg (x y : Reg) : Statement (.addReg x y) := by
  simp only [Statement, encode, Instr.row, and_lowNibbleMask, fieldClass_wordXYN, fieldN_wordXYN]
  decide

theorem sub (x y : Reg) : Statement (.sub x y) := by
  simp only [Statement, encode, Instr.row, and_lowNibbleMask, fieldClass_wordXYN, fieldN_wordXYN]
  decide

theorem shr (x y : Reg) : Statement (.shr x y) := by
  simp only [Statement, encode, Instr.row, and_lowNibbleMask, fieldClass_wordXYN, fieldN_wordXYN]
  decide

theorem subn (x y : Reg) : Statement (.subn x y) := by
  simp only [Statement, encode, Instr.row, and_lowNibbleMask, fieldClass_wordXYN, fieldN_wordXYN]
  decide

theorem shl (x y : Reg) : Statement (.shl x y) := by
  simp only [Statement, encode, Instr.row, and_lowNibbleMask, fieldClass_wordXYN, fieldN_wordXYN]
  decide

theorem nop88 (x y : Reg) : Statement (.nop88 x y) := by
  simp only [Statement, encode, Instr.row, and_lowNibbleMask, fieldClass_wordXYN, fieldN_wordXYN]
  decide

theorem nop89 (x y : Reg) : Statement (.nop89 x y) := by
  simp only [Statement, encode, Instr.row, and_lowNibbleMask, fieldClass_wordXYN, fieldN_wordXYN]
  decide

theorem nop8A (x y : Reg) : Statement (.nop8A x y) := by
  simp only [Statement, encode, Instr.row, and_lowNibbleMask, fieldClass_wordXYN, fieldN_wordXYN]
  decide

theorem nop8B (x y : Reg) : Statement (.nop8B x y) := by
  simp only [Statement, encode, Instr.row, and_lowNibbleMask, fieldClass_wordXYN, fieldN_wordXYN]
  decide

theorem nop8C (x y : Reg) : Statement (.nop8C x y) := by
  simp only [Statement, encode, Instr.row, and_lowNibbleMask, fieldClass_wordXYN, fieldN_wordXYN]
  decide

theorem nop8D (x y : Reg) : Statement (.nop8D x y) := by
  simp only [Statement, encode, Instr.row, and_lowNibbleMask, fieldClass_wordXYN, fieldN_wordXYN]
  decide

theorem nop8F (x y : Reg) : Statement (.nop8F x y) := by
  simp only [Statement, encode, Instr.row, and_lowNibbleMask, fieldClass_wordXYN, fieldN_wordXYN]
  decide

theorem sneReg (x y : Reg) : Statement (.sneReg x y) := by
  simp only [Statement, encode, Instr.row, and_classMask, fieldClass_wordXYN]
  decide

theorem ldI (nnn : Addr12) : Statement (.ldI nnn) := by
  simp only [Statement, encode, Instr.row, and_classMask, fieldClass_wordA]
  decide

theorem jpV0 (nnn : Addr12) : Statement (.jpV0 nnn) := by
  simp only [Statement, encode, Instr.row, and_classMask, fieldClass_wordA]
  decide

theorem rnd (x : Reg) (kk : Byte) : Statement (.rnd x kk) := by
  simp only [Statement, encode, Instr.row, and_classMask, fieldClass_wordXK]
  decide

theorem drw (x y : Reg) (n : Nibble) : Statement (.drw x y n) := by
  simp only [Statement, encode, Instr.row, and_classMask, fieldClass_wordXYN]
  decide

theorem skp (x : Reg) : Statement (.skp x) := by
  simp only [Statement, encode, Instr.row, and_lowByteMask, fieldClass_wordXK, fieldKK_wordXK]
  decide

theorem sknp (x : Reg) : Statement (.sknp x) := by
  simp only [Statement, encode, Instr.row, and_lowByteMask, fieldClass_wordXK, fieldKK_wordXK]
  decide

theorem nopE (x : Reg) (kk : Byte) : Statement (.nopE x kk) := by
  simp only [Statement, encode, Instr.row, and_classMask, fieldClass_wordXK]
  decide

theorem ldVxDt (x : Reg) : Statement (.ldVxDt x) := by
  simp only [Statement, encode, Instr.row, and_lowByteMask, fieldClass_wordXK, fieldKK_wordXK]
  decide

theorem ldVxK (x : Reg) : Statement (.ldVxK x) := by
  simp only [Statement, encode, Instr.row, and_lowByteMask, fieldClass_wordXK, fieldKK_wordXK]
  decide

theorem ldDt (x : Reg) : Statement (.ldDt x) := by
  simp only [Statement, encode, Instr.row, and_lowByteMask, fieldClass_wordXK, fieldKK_wordXK]
  decide

theorem ldSt (x : Reg) : Statement (.ldSt x) := by
  simp only [Statement, encode, Instr.row, and_lowByteMask, fieldClass_wordXK, fieldKK_wordXK]
  decide

theorem addI (x : Reg) : Statement (.addI x) := by
  simp only [Statement, encode, Instr.row, and_lowByteMask, fieldClass_wordXK, fieldKK_wordXK]
  decide

theorem ldF (x : Reg) : Statement (.ldF x) := by
  simp only [Statement, encode, Instr.row, and_lowByteMask, fieldClass_wordXK, fieldKK_wordXK]
  decide

theorem ldB (x : Reg) : Statement (.ldB x) := by
  simp only [Statement, encode, Instr.row, and_lowByteMask, fieldClass_wordXK, fieldKK_wordXK]
  decide

theorem ldMem (x : Reg) : Statement (.ldMem x) := by
  simp only [Statement, encode, Instr.row, and_lowByteMask, fieldClass_wordXK, fieldKK_wordXK]
  decide

theorem ldRegs (x : Reg) : Statement (.ldRegs x) := by
  simp only [Statement, encode, Instr.row, and_lowByteMask, fieldClass_wordXK, fieldKK_wordXK]
  decide

theorem nopF (x : Reg) (kk : Byte) : Statement (.nopF x kk) := by
  simp only [Statement, encode, Instr.row, and_classMask, fieldClass_wordXK]
  decide

end Sys2Proof.Laws.MatchesRow
end

