-- ==== Sys2Proof/Tests/Slice0.lean ====
section
/-! SUPPORT. The model's own tests: ill-formed terms refused, every constructor's word written out from
30_encoding.md R69, single steps with the results of 95_test_vectors.md (its section is named at each), and a
witness for every statement that has hypotheses. -/

-- One proof at a time: the joined compile then needs a bounded number of threads, whatever the machine.
set_option Elab.async false

open Sys2Proof Sys2Proof.Machine

namespace Sys2Proof.Tests

/-! ## Helpers -/

/-- The state after reset with some registers set. -/
def withRegs (l : List (Reg × Byte)) : State := l.foldl (fun s p => s.setReg p.1 p.2) State.reset

/-- The state after reset with some bytes of memory set. -/
def withBytes (a : Nat) (bs : List Byte) : State := State.reset.writeBytes a bs

/-- An outcome is a next state that meets `p`. -/
def endsIn (o : Host.Outcome State Fault Refusal) (p : State → Bool) : Bool :=
  match o with
  | .next t => p t
  | .fault _ => false
  | .refused _ => false

/-- One step of the word `w` placed at PC of `s`, with a random byte. -/
def steps (rnd : Byte) (s : State) (w : Word) (p : State → Bool) : Bool :=
  endsIn (stepWith rnd (s.placeWord w)) p

/-! ## Ill-formed terms, one for each check of WellFormed.lean (30_encoding.md R73, R74) -/

theorem test_wellFormed_sys_lowByte :
    (Instr.sys 0x1E0).wellFormed .lowByte = false ∧ (Instr.sys 0x0EE).wellFormed .lowByte = false := by decide

theorem test_wellFormed_sys_fullWord :
    (Instr.sys 0x0E0).wellFormed .fullWord = false ∧ (Instr.sys 0x0EE).wellFormed .fullWord = false ∧
    (Instr.sys 0x1E0).wellFormed .fullWord = true := by decide

theorem test_wellFormed_sys_lowNibble :
    (Instr.sys 0x120).wellFormed .lowNibble = false ∧ (Instr.sys 0x12E).wellFormed .lowNibble = false := by decide

theorem test_wellFormed_nopE :
    (Instr.nopE 1 0x9E).wellFormed .lowByte = false ∧ (Instr.nopE 1 0xA1).wellFormed .lowByte = false ∧
    (Instr.nopE 1 0xFF).wellFormed .lowByte = true := by decide

theorem test_wellFormed_nopF :
    (∀ kk ∈ [0x07, 0x0A, 0x15, 0x18, 0x1E, 0x29, 0x33, 0x55, 0x65], (Instr.nopF 1 kk).wellFormed .lowByte = false) ∧
    (Instr.nopF 1 0xFF).wellFormed .lowByte = true := by decide

/-! ## Decoding: the nibbles of each row of 30_encoding.md R69, operands X = 3, Y = A, N = 7, KK = C5, NNN = B29 -/

theorem test_decode_class0 :
    decode 0b0000_0000_1110_0000 = .cls ∧ decode 0b0000_0000_1110_1110 = .ret ∧
    decode 0b0000_1011_0010_1001 = .sys 0xB29 := by decide

theorem test_decode_jumps :
    decode 0b0001_1011_0010_1001 = .jp 0xB29 ∧ decode 0b0010_1011_0010_1001 = .call 0xB29 ∧
    decode 0b1011_1011_0010_1001 = .jpV0 0xB29 := by decide

theorem test_decode_skips :
    decode 0b0011_0011_1100_0101 = .seByte 3 0xC5 ∧ decode 0b0100_0011_1100_0101 = .sneByte 3 0xC5 ∧
    decode 0b0101_0011_1010_0000 = .seReg 3 0xA ∧ decode 0b1001_0011_1010_0000 = .sneReg 3 0xA := by decide

theorem test_decode_low_nibble_ignored :
    decode 0b0101_0011_1010_0111 = .seReg 3 0xA ∧ decode 0b1001_0011_1010_1111 = .sneReg 3 0xA := by decide

theorem test_decode_immediate :
    decode 0b0110_0011_1100_0101 = .ldByte 3 0xC5 ∧ decode 0b0111_0011_1100_0101 = .addByte 3 0xC5 ∧
    decode 0b1100_0011_1100_0101 = .rnd 3 0xC5 := by decide

theorem test_decode_class8 :
    decode 0b1000_0011_1010_0000 = .ldReg 3 0xA ∧ decode 0b1000_0011_1010_0001 = .or 3 0xA ∧
    decode 0b1000_0011_1010_0010 = .and 3 0xA ∧ decode 0b1000_0011_1010_0011 = .xor 3 0xA ∧
    decode 0b1000_0011_1010_0100 = .addReg 3 0xA ∧ decode 0b1000_0011_1010_0101 = .sub 3 0xA ∧
    decode 0b1000_0011_1010_0110 = .shr 3 0xA ∧ decode 0b1000_0011_1010_0111 = .subn 3 0xA ∧
    decode 0b1000_0011_1010_1110 = .shl 3 0xA := by decide

theorem test_decode_class8_noops :
    decode 0b1000_0011_1010_1000 = .nop88 3 0xA ∧ decode 0b1000_0011_1010_1001 = .nop89 3 0xA ∧
    decode 0b1000_0011_1010_1010 = .nop8A 3 0xA ∧ decode 0b1000_0011_1010_1011 = .nop8B 3 0xA ∧
    decode 0b1000_0011_1010_1100 = .nop8C 3 0xA ∧ decode 0b1000_0011_1010_1101 = .nop8D 3 0xA ∧
    decode 0b1000_0011_1010_1111 = .nop8F 3 0xA := by decide

theorem test_decode_index_and_draw :
    decode 0b1010_1011_0010_1001 = .ldI 0xB29 ∧ decode 0b1101_0011_1010_0111 = .drw 3 0xA 7 := by decide

theorem test_decode_classE :
    decode 0b1110_0011_1001_1110 = .skp 3 ∧ decode 0b1110_0011_1010_0001 = .sknp 3 ∧
    decode 0b1110_0011_1100_0101 = .nopE 3 0xC5 := by decide

theorem test_decode_classF :
    decode 0b1111_0011_0000_0111 = .ldVxDt 3 ∧ decode 0b1111_0011_0000_1010 = .ldVxK 3 ∧
    decode 0b1111_0011_0001_0101 = .ldDt 3 ∧ decode 0b1111_0011_0001_1000 = .ldSt 3 ∧
    decode 0b1111_0011_0001_1110 = .addI 3 ∧ decode 0b1111_0011_0010_1001 = .ldF 3 ∧
    decode 0b1111_0011_0011_0011 = .ldB 3 ∧ decode 0b1111_0011_0101_0101 = .ldMem 3 ∧
    decode 0b1111_0011_0110_0101 = .ldRegs 3 ∧ decode 0b1111_0011_1100_0101 = .nopF 3 0xC5 := by decide

/-- 95_test_vectors.md 2.1: 0x01E0 and 0x0120 under the three values of CLASS0_DISPATCH. -/
theorem test_decode_class0_variants :
    decodeWith .lowByte 0x01E0 = .cls ∧ decodeWith .fullWord 0x01E0 = .sys 0x1E0 ∧
    decodeWith .lowByte 0x0120 = .sys 0x120 ∧ decodeWith .lowNibble 0x0120 = .cls := by decide

/-- A word is read high byte first (20_memory.md R49); a missing byte is refused by name. -/
theorem test_decodeBytes :
    decodeBytes [0x8A, 0xB4, 0x12] = .ok (.addReg 0xA 0xB, [0x12]) ∧
    decodeBytes [0x8A] = .error .truncated := by decide

theorem test_decodeTableWord :
    decodeTableWord 16 0xD015 = some (.drw 0 1 5) ∧ decodeTableWord 16 0x00EE = some .ret := by decide

/-! ## One step: control transfer (95_test_vectors.md 2.1, 2.2) -/

theorem test_sys : steps 0 { State.reset with dt := 2 } 0x0123 (fun t => t.pc == 0x202 && t.dt == 1) = true := by decide

theorem test_nopE : steps 0 { State.reset with dt := 2 } 0xE1FF (fun t => t.pc == 0x202 && t.dt == 1) = true := by decide

theorem test_nopF : steps 0 { State.reset with dt := 2 } 0xF1FF (fun t => t.pc == 0x202 && t.dt == 1) = true := by decide

theorem test_nop8F : steps 0 { State.reset with dt := 2 } 0x812F (fun t => t.pc == 0x202 && t.dt == 1) = true := by decide

theorem test_jp : steps 0 State.reset 0x1ABC (fun t => t.pc == 0xABC) = true := by decide

theorem test_jpV0_high : steps 0 (withRegs [(0, 0xFF)]) 0xBFFF (fun t => t.pc == 0x10FE) = true := by decide

theorem test_jpV0_uses_v0 : steps 0 (withRegs [(3, 0x10)]) 0xB300 (fun t => t.pc == 0x300) = true := by decide

theorem test_call_last : steps 0 { State.reset with sp := 15 } 0x2300
    (fun t => t.stack[15] == 0x200 && t.sp == 16 && t.pc == 0x300) = true := by decide

theorem test_call_overflow : steps 0 { State.reset with sp := 16, dt := 5 } 0x2300
    (fun t => t.status == .halted && t.cause.code == 1 && t.sp == 16 && t.pc == 0x200 && t.dt == 5) = true := by decide

theorem test_ret : steps 0 { State.reset with sp := 1, stack := State.reset.stack.set 0 0x204 } 0x00EE
    (fun t => t.sp == 0 && t.pc == 0x206 && t.stack[0] == 0x204) = true := by decide

theorem test_ret_underflow : steps 0 { State.reset with dt := 5 } 0x00EE
    (fun t => t.status == .halted && t.cause.code == 2 && t.pc == 0x200 && t.dt == 5) = true := by decide

theorem test_seByte : steps 0 (withRegs [(3, 0x42)]) 0x3342 (fun t => t.pc == 0x204) = true ∧
    steps 0 (withRegs [(3, 0x41)]) 0x3342 (fun t => t.pc == 0x202) = true := by decide

theorem test_sneByte : steps 0 (withRegs [(3, 0x42)]) 0x4342 (fun t => t.pc == 0x202) = true ∧
    steps 0 State.reset 0x4342 (fun t => t.pc == 0x204) = true := by decide

theorem test_seReg : steps 0 (withRegs [(1, 7), (2, 7)]) 0x5121 (fun t => t.pc == 0x204) = true ∧
    steps 0 (withRegs [(1, 7), (2, 8)]) 0x5120 (fun t => t.pc == 0x202) = true := by decide

theorem test_sneReg : steps 0 (withRegs [(1, 7), (2, 8)]) 0x9120 (fun t => t.pc == 0x204) = true ∧
    steps 0 (withRegs [(1, 7)]) 0x9110 (fun t => t.pc == 0x202) = true := by decide

/-- 95_test_vectors.md 2.1: the last fetchable address, and the first that is not. -/
theorem test_fetch_top : steps 0 { State.reset with pc := 4094 } 0x6011 (fun t => t.v[0] == 0x11 && t.pc == 4096) = true := by
  decide

theorem test_fetch_out_of_range : endsIn (stepWith 0 { State.reset with pc := 4095, dt := 3 })
    (fun t => t.status == .halted && t.cause.code == 3 && t.pc == 4095 && t.dt == 3 && t.redraw == false) = true := by decide

theorem test_fetch_odd : steps 0 { State.reset with pc := 0x201 } 0x6122 (fun t => t.v[1] == 0x22 && t.pc == 0x203) = true := by
  decide

theorem test_halted_step : stepWith 7 { State.reset with status := .halted, cause := .stackOverflow } =
    .next { State.reset with status := .halted, cause := .stackOverflow } := by rfl

/-! ## One step: ALU (95_test_vectors.md S2, S3, 2.3) -/

theorem test_ldByte : steps 0 State.reset 0x6A7B (fun t => t.v[10] == 0x7B && t.v[15] == 0) = true := by decide

theorem test_addByte_no_flag : steps 0 (withRegs [(0, 0xFE), (15, 0x55)]) 0x7003
    (fun t => t.v[0] == 0x01 && t.v[15] == 0x55) = true := by decide

theorem test_ldReg : steps 0 (withRegs [(2, 0x11), (15, 0x55)]) 0x8120
    (fun t => t.v[1] == 0x11 && t.v[15] == 0x55) = true := by decide

theorem test_or : steps 0 (withRegs [(1, 0x0F), (2, 0xF0), (15, 0x55)]) 0x8121
    (fun t => t.v[1] == 0xFF && t.v[15] == 0x55) = true := by decide

theorem test_and : steps 0 (withRegs [(1, 0x3C), (2, 0x0F)]) 0x8122 (fun t => t.v[1] == 0x0C) = true := by decide

theorem test_xor : steps 0 (withRegs [(1, 0x3C), (2, 0x0F)]) 0x8123 (fun t => t.v[1] == 0x33) = true := by decide

theorem test_addReg_carry : steps 0 (withRegs [(1, 0xFF), (2, 0x01)]) 0x8124
    (fun t => t.v[1] == 0x00 && t.v[15] == 1 && t.pc == 0x202) = true := by decide

theorem test_addReg_flag_last : steps 0 (withRegs [(15, 0xFF), (0, 0x01)]) 0x8F04 (fun t => t.v[15] == 1) = true ∧
    steps 0 (withRegs [(15, 0x10), (0, 0x20)]) 0x8F04 (fun t => t.v[15] == 0) = true := by decide

theorem test_sub : steps 0 (withRegs [(1, 0x03), (2, 0x05)]) 0x8125 (fun t => t.v[1] == 0xFE && t.v[15] == 0) = true := by decide

theorem test_sub_equal : steps 0 (withRegs [(1, 7), (2, 7)]) 0x8125 (fun t => t.v[1] == 0 && t.v[15] == 1) = true := by decide

theorem test_shr_ignores_y : steps 0 (withRegs [(1, 0x04), (2, 0xFF)]) 0x8126 (fun t => t.v[1] == 0x02 && t.v[15] == 0) = true := by
  decide

theorem test_shr_flag : steps 0 (withRegs [(15, 0x03)]) 0x8F06 (fun t => t.v[15] == 1) = true := by decide

theorem test_subn : steps 0 (withRegs [(1, 0x03), (2, 0x05)]) 0x8127 (fun t => t.v[1] == 0x02 && t.v[15] == 1) = true ∧
    steps 0 (withRegs [(1, 0x05), (2, 0x03)]) 0x8127 (fun t => t.v[1] == 0xFE && t.v[15] == 0) = true := by decide

theorem test_shl : steps 0 (withRegs [(1, 0x81)]) 0x812E (fun t => t.v[1] == 0x02 && t.v[15] == 1) = true ∧
    steps 0 (withRegs [(1, 0x7F)]) 0x812E (fun t => t.v[1] == 0xFE && t.v[15] == 0) = true := by decide

theorem test_rnd : steps 0xB6 State.reset 0xC30F (fun t => t.v[3] == 0x06) = true := by decide

/-! ## One step: index and memory (95_test_vectors.md 2.4) -/

theorem test_ldI : steps 0 State.reset 0xA300 (fun t => t.i == 0x300) = true := by decide

theorem test_addI_wraps : steps 0 { withRegs [(2, 2)] with i := 0xFFFF } 0xF21E
    (fun t => t.i == 1 && t.v[15] == 0) = true := by decide

theorem test_ldF_low_nibble : steps 0 (withRegs [(2, 0x1A)]) 0xF229 (fun t => t.i == 0x32) = true := by decide

theorem test_ldB : steps 0 { withRegs [(5, 255)] with i := 4093 } 0xF533
    (fun t => t.readByte 4093 == 2 && t.readByte 4094 == 5 && t.readByte 4095 == 5 && t.i == 4093) = true := by decide

theorem test_ldB_out_of_range : steps 0 { withRegs [(5, 9)] with i := 4094 } 0xF533
    (fun t => t.status == .halted && t.cause.code == 4 && t.readByte 4094 == 0 && t.readByte 4095 == 0) = true := by decide

theorem test_ldMem : steps 0 { withRegs [(0, 0xAA), (1, 0xBB), (2, 0xCC)] with i := 0x400 } 0xF155
    (fun t => t.readByte 0x400 == 0xAA && t.readByte 0x401 == 0xBB && t.readByte 0x402 == 0 && t.i == 0x400) = true := by decide

theorem test_ldMem_out_of_range : steps 0 { withRegs [(0, 9)] with i := 4081 } 0xFF55
    (fun t => t.status == .halted && t.cause.code == 4 && t.readByte 4081 == 0) = true := by decide

theorem test_ldRegs : steps 0 { (withBytes 0x300 [1, 2, 3, 4]).setReg 3 0x77 with i := 0x300 } 0xF265
    (fun t => t.v[0] == 1 && t.v[1] == 2 && t.v[2] == 3 && t.v[3] == 0x77 && t.i == 0x300) = true := by decide

theorem test_ldRegs_out_of_range : steps 0 { State.reset with i := 0x1000 } 0xF065
    (fun t => t.status == .halted && t.cause.code == 4 && t.v[0] == 0) = true := by decide

/-! ## One step: display (95_test_vectors.md S4, S5, 2.5) -/

theorem test_cls : steps 0 { State.reset with disp := State.reset.disp.flip 3 4 } 0x00E0
    (fun t => t.disp[3][4] == false && t.redraw && t.pc == 0x202) = true := by decide

theorem test_drw_wraps_columns : steps 0 { (withBytes 0x300 [0xFF]).setReg 0 63 with i := 0x300 } 0xD011
    (fun t => t.disp[63][0] && t.disp[0][0] && t.disp[6][0] && !t.disp[7][0] && !t.disp[62][0] && t.v[15] == 0) = true := by decide

theorem test_drw_collision : steps 0 { withBytes 0x300 [0xC0] with i := 0x300, disp := State.reset.disp.flip 1 0 } 0xD011
    (fun t => t.disp[0][0] && !t.disp[1][0] && t.v[15] == 1 && t.redraw) = true := by decide

/-! ## One step: keys and timers (95_test_vectors.md S7, S8, 2.6, 2.7) -/

theorem test_skp : steps 0 { withRegs [(1, 0x15)] with key := State.reset.key.set 5 true } 0xE19E (fun t => t.pc == 0x204) = true ∧
    steps 0 (withRegs [(1, 5)]) 0xE19E (fun t => t.pc == 0x202) = true := by decide

theorem test_sknp : steps 0 { withRegs [(1, 0x15)] with key := State.reset.key.set 5 true } 0xE1A1 (fun t => t.pc == 0x202) = true ∧
    steps 0 (withRegs [(1, 5)]) 0xE1A1 (fun t => t.pc == 0x204) = true := by decide

theorem test_ldVxK_lowest : steps 0 (State.reset.setKeys 0x0088) 0xF20A (fun t => t.v[2] == 3 && t.pc == 0x202) = true := by decide

theorem test_ldVxK_blocked : steps 0 { State.reset with st := 1, dt := 3 } 0xF20A
    (fun t => t.pc == 0x200 && t.st == 0 && t.beep && t.dt == 2) = true := by decide

theorem test_ldVxDt : steps 0 { State.reset with dt := 0x10 } 0xF307 (fun t => t.v[3] == 0x10 && t.dt == 0x0F) = true := by decide

theorem test_ldDt : steps 0 (withRegs [(0, 5)]) 0xF015 (fun t => t.dt == 4) = true ∧
    steps 0 { State.reset with dt := 9 } 0xF015 (fun t => t.dt == 0) = true := by decide

theorem test_ldSt : steps 0 (withRegs [(0, 1)]) 0xF018 (fun t => t.st == 0 && t.beep) = true ∧
    steps 0 { State.reset with st := 1 } 0xF018 (fun t => t.st == 0 && !t.beep) = true := by decide

/-! ## The host's commands (95_test_vectors.md 2.8) -/

theorem test_load : ((State.reset.load [0x22, 0x00]).1.readByte 0x200, (State.reset.load [0x22, 0x00]).2) = (0x22, LoadResult.ok) := by
  decide

/-- 70_reset_and_hazards.md R175: `reset`, one `load`, then a step; a second `load`, or one after the step, is
refused by name. -/
theorem test_boot_order :
    (match issueAll [.reset, .load [0x6A, 0x7B], .step 0] (.unreset defaultFont) with
      | .next (.live .stepping t) => t.v[10] == 0x7B && t.pc == 0x202
      | _ => false) = true ∧
    issueAll [.reset, .load [0x6A, 0x7B], .load []] (.unreset defaultFont) = .refused (.hostOutOfOrder .loadRepeated) ∧
    issueAll [.reset, .load [0x6A, 0x7B], .step 0, .load []] (.unreset defaultFont) =
      .refused (.hostOutOfOrder .loadAfterStep) := ⟨by decide, rfl, rfl⟩

/-- Another table FONT is what memory then holds after reset (00_scope.md R6), and what a draw of a glyph shows. -/
theorem test_other_font :
    (State.resetWith (defaultFont.set 50 0x01)).readByte 50 = 0x01 ∧
    steps 0 { State.resetWith (defaultFont.set 50 0x01) with i := 50 } 0xD011 (fun t => t.disp[7][0] && !t.disp[0][0]) = true := by
  decide

theorem test_setKeys : (State.reset.setKeys 0x0220).key[5] = true ∧ (State.reset.setKeys 0x0220).key[9] = true ∧
    (State.reset.setKeys 0x0220).key[0] = false := by decide

theorem test_outputs : State.reset.outputs.redraw = true ∧ State.reset.outputs.cause = 0 ∧
    (withRegs [(15, 1)]).outputs.vfOut = 1 := by decide

/-- The host's placing of a table word is what the very next step from reset runs (log entry 9). -/
theorem test_withFetchWord : endsIn (step (State.reset.withFetchWord 16 0x6A7B)) (fun t => t.v[10] == 0x7B && t.pc == 0x202) = true := by
  decide

/-! ## Witnesses: for each statement with hypotheses, concrete values that meet them all, one for each clause -/

/-- The state after reset with `w` at PC. -/
def atWord (w : Word) : State := State.reset.placeWord w

/-- A machine a fatal condition has stopped. -/
def haltedState : State := { State.reset with status := .halted, cause := .stackUnderflow, redraw := false }

theorem witness_EncodedInstructionsDecodeBack :
    (Instr.sys 0x123).wellFormed .lowByte = true ∧ (Instr.sys 0x1E0).wellFormed .fullWord = true ∧
    (Instr.sys 0x0E1).wellFormed .lowNibble = true ∧ (Instr.nopE 15 0x9F).wellFormed .lowByte = true ∧
    (Instr.nopF 15 0x08).wellFormed .lowByte = true ∧ (Instr.drw 0 15 15).wellFormed .lowByte = true := by decide

/-- Classes 5 and 9, and a word of neither that is not `CLS` or `RET`. -/
theorem witness_EveryWordDecodesAndEncodesBack :
    (0x5FFF#16).toNat / 4096 = 5 ∧ (0x9000#16).toNat / 4096 = 9 ∧
    ((0x8124#16).toNat / 4096 ≠ 5 ∧ (0x8124#16).toNat / 4096 ≠ 9 ∧
      decodeWith .lowByte 0x8124 ≠ .cls ∧ decodeWith .lowByte 0x8124 ≠ .ret) := by decide

/-- The lowest and the highest word of each class with one instruction. -/
theorem witness_SingleInstructionClasses :
    ∀ c ∈ [1, 2, 3, 4, 5, 6, 7, 9, 10, 11, 12, 13],
      (BitVec.ofNat 16 (c * 4096)).toNat / 4096 = c ∧ (BitVec.ofNat 16 (c * 4096 + 4095)).toNat / 4096 = c := by decide

/-- Every selecting code of classes 8, E and F, with X = F and Y = 0 (class 8), X = F and Y read from the code. -/
theorem witness_SecondaryDispatchSelects :
    (∀ n ∈ [0x0, 0x1, 0x2, 0x3, 0x4, 0x5, 0x6, 0x7, 0x8, 0x9, 0xA, 0xB, 0xC, 0xD, 0xE, 0xF],
      (BitVec.ofNat 16 (0x8F00 + n)).toNat / 4096 = 0x8 ∧ (BitVec.ofNat 16 (0x8F00 + n)).toNat % 16 = n ∧
      (15 : Reg) = Fin.ofNat 16 ((BitVec.ofNat 16 (0x8F00 + n)).toNat / 256) ∧
      (0 : Reg) = Fin.ofNat 16 ((BitVec.ofNat 16 (0x8F00 + n)).toNat / 16)) ∧
    (∀ n ∈ [0x9E, 0xA1],
      (BitVec.ofNat 16 (0xEF00 + n)).toNat / 4096 = 0xE ∧ (BitVec.ofNat 16 (0xEF00 + n)).toNat % 256 = n) ∧
    (∀ n ∈ [0x07, 0x0A, 0x15, 0x18, 0x1E, 0x29, 0x33, 0x55, 0x65],
      (BitVec.ofNat 16 (0xFF00 + n)).toNat / 4096 = 0xF ∧ (BitVec.ofNat 16 (0xFF00 + n)).toNat % 256 = n) := by decide

/-- Class-0 words of each branch, the highest one among them. -/
theorem witness_ClassZeroDispatch :
    (0x0FFF#16).toNat < 4096 ∧ (0x0000#16).toNat < 4096 ∧
    ((0x01E0#16).toNat < 4096 ∧ (0x01E0#16).toNat % 256 = 0xE0) ∧ ((0x0FEE#16).toNat < 4096 ∧ (0x0FEE#16).toNat % 256 = 0xEE) := by
  decide

theorem witness_UnrecognisedWordsAreNoOps :
    ((0x0120#16).toNat / 4096 = 0x0 ∧ (0x0120#16).toNat % 256 ∉ [0xE0, 0xEE]) ∧
    ((0x812F#16).toNat / 4096 = 0x8 ∧ (0x812F#16).toNat % 16 ∈ [0x8, 0x9, 0xA, 0xB, 0xC, 0xD, 0xF]) ∧
    ((0xE1FF#16).toNat / 4096 = 0xE ∧ (0xE1FF#16).toNat % 256 ∉ [0x9E, 0xA1]) ∧
    ((0xF1FF#16).toNat / 4096 = 0xF ∧
      (0xF1FF#16).toNat % 256 ∉ [0x07, 0x0A, 0x15, 0x18, 0x1E, 0x29, 0x33, 0x55, 0x65]) ∧
    (Running (atWord 0xF1FF) ∧ (atWord 0xF1FF).pc.toNat < 4095 ∧ (atWord 0xF1FF).fetchWord = 0xF1FF) := by decide

/-- SP at 1, at 16 and at 0. -/
theorem witness_ReturnPopsOrUnderflows :
    ({ State.reset with sp := 1 } : State).sp.val = (0 : Fin 16).val + 1 ∧
    ({ State.reset with sp := 16 } : State).sp.val = (15 : Fin 16).val + 1 ∧ State.reset.sp.val = 0 := by decide

/-- SP at 0, at 15 and at 16. -/
theorem witness_CallPushesOrOverflows :
    State.reset.sp.val = (0 : Fin 16).val ∧ ({ State.reset with sp := 15 } : State).sp.val = (15 : Fin 16).val ∧
    ({ State.reset with sp := 16 } : State).sp.val = 16 := by decide

theorem witness_CallThenReturnResumes :
    State.reset.sp.val < 16 ∧ ({ State.reset with sp := 15 } : State).sp.val < 16 := by decide

theorem witness_RandomIsMasked :
    Running (atWord 0xC30F) ∧ (atWord 0xC30F).pc.toNat < 4095 ∧ decode (atWord 0xC30F).fetchWord = .rnd 3 0x0F := by decide

theorem witness_RandomAdmitsExactlyTheMaskedBytes :
    Running (atWord 0xC30F) ∧ (atWord 0xC30F).pc.toNat < 4095 ∧ decode (atWord 0xC30F).fetchWord = .rnd 3 0x0F := by decide

/-- I at 4093, the highest in range, and at 4094. -/
theorem witness_DecimalStoreWritesThreeDigits :
    (({ State.reset with i := 4093 } : State).memWf = true ∧ dataAddr { State.reset with i := 4093 } 2 < 4096) ∧
    4096 ≤ ({ State.reset with i := 4094 } : State).i.toNat + 2 := by decide

/-- X = F with I at 4080 and at 4081; X = 0 with I at 4095 and at 4096. -/
theorem witness_RegisterDumpWritesTheBlock :
    (({ State.reset with i := 4080 } : State).memWf = true ∧ dataAddr { State.reset with i := 4080 } (15 : Reg).val < 4096) ∧
    dataAddr { State.reset with i := 4095 } (0 : Reg).val < 4096 ∧
    4096 ≤ ({ State.reset with i := 4081 } : State).i.toNat + (15 : Reg).val ∧
    4096 ≤ ({ State.reset with i := 4096 } : State).i.toNat + (0 : Reg).val := by decide

theorem witness_RegisterLoadReadsTheBlock :
    dataAddr { State.reset with i := 4080 } (15 : Reg).val < 4096 ∧
    4096 ≤ ({ State.reset with i := 4081 } : State).i.toNat + (15 : Reg).val ∧
    4096 ≤ ({ State.reset with i := 0xFFFF } : State).i.toNat + (0 : Reg).val := by decide

/-- No row with I at the top; one row at 4095; two rows at 4095. -/
theorem witness_DrawXorsTheSprite :
    (0#4).toNat = 0 ∧ dataAddr { State.reset with i := 4095 } ((1#4).toNat - 1) < 4096 ∧
    (0 < (2#4).toNat ∧ 4096 ≤ ({ State.reset with i := 4095 } : State).i.toNat + ((2#4).toNat - 1)) := by decide

theorem witness_DrawingTwiceRestoresTheDisplay :
    dataAddr { State.reset with i := 0x300 } ((15#4).toNat - 1) < 4096 ∧ (0 : Reg) ≠ 15 ∧ (14 : Reg) ≠ 15 := by decide

theorem witness_KeySkips : (5 : Reg).val = (withRegs [(1, 0x15)]).v[1].toNat % 16 ∧ (0 : Reg).val = State.reset.v[1].toNat % 16 := by
  decide

/-- Keys 3 and 7 down; key 15 alone; none. -/
theorem witness_KeyWaitTakesTheLowestKeyOrBlocks :
    ((State.reset.setKeys 0x0088).key[(3 : Reg)] = true ∧ ∀ j : Reg, j < 3 → (State.reset.setKeys 0x0088).key[j] = false) ∧
    ((State.reset.setKeys 0x8000).key[(15 : Reg)] = true ∧ ∀ j : Reg, j < 15 → (State.reset.setKeys 0x8000).key[j] = false) ∧
    (∀ k : Reg, State.reset.key[k] = false) := by decide

theorem witness_WaitingGoesOnWhileTimersDecay : Waiting { atWord 0xF10A with dt := 3 } :=
  ⟨by decide, by decide, ⟨1, by decide⟩, by decide⟩

theorem witness_TimerMoves :
    (Running (atWord 0xF307) ∧ (atWord 0xF307).pc.toNat < 4095 ∧ decode (atWord 0xF307).fetchWord = .ldVxDt 3) ∧
    (Running (atWord 0xF015) ∧ (atWord 0xF015).pc.toNat < 4095 ∧ decode (atWord 0xF015).fetchWord = .ldDt 0) ∧
    (Running (atWord 0xF018) ∧ (atWord 0xF018).pc.toNat < 4095 ∧ decode (atWord 0xF018).fetchWord = .ldSt 0) := by decide

/-- `LD DT, Vx`, `LD ST, Vx`, another word, and a fatal one. -/
theorem witness_StepsTickTheTimers :
    (Running (atWord 0xF015) ∧ ∃ t, step (atWord 0xF015) = .next t ∧ Running t ∧ decode (atWord 0xF015).fetchWord = .ldDt 0) ∧
    (Running (atWord 0xF018) ∧ ∃ t, step (atWord 0xF018) = .next t ∧ Running t ∧ decode (atWord 0xF018).fetchWord = .ldSt 0) ∧
    (Running (atWord 0x6A7B) ∧ ∃ t, step (atWord 0x6A7B) = .next t ∧ Running t ∧
      (∀ x, decode (atWord 0x6A7B).fetchWord ≠ .ldDt x) ∧ ∀ x, decode (atWord 0x6A7B).fetchWord ≠ .ldSt x) ∧
    (Running (atWord 0x00EE) ∧ ∃ t, step (atWord 0x00EE) = .next t ∧ t.status = .halted) :=
  ⟨⟨rfl, _, rfl, rfl, rfl⟩, ⟨rfl, _, rfl, rfl, rfl⟩, ⟨rfl, _, rfl, rfl, by decide, by decide⟩, ⟨rfl, _, rfl, rfl⟩⟩

/-- A halted state; PC at 4095; a running state with a word to execute. The state `s'` is the one its equation
names. -/
theorem witness_StepRunsTheDecodedInstruction :
    haltedState.status = .halted ∧
    (Running { State.reset with pc := 4095 } ∧ 4095 ≤ ({ State.reset with pc := 4095 } : State).pc.toNat) ∧
    (Running { State.reset with pc := 4094 } ∧ ({ State.reset with pc := 4094 } : State).pc.toNat < 4095) ∧
    (Running (atWord 0x6A7B) ∧ (atWord 0x6A7B).pc.toNat < 4095 ∧
      decode ((atWord 0x6A7B).readByte (atWord 0x6A7B).pc.toNat ++ (atWord 0x6A7B).readByte ((atWord 0x6A7B).pc.toNat + 1)) =
        .ldByte 10 0x7B ∧
      ∃ t, exec (.ldByte 10 0x7B) { atWord 0x6A7B with
        redraw := false, beep := false, rnd := Config.rnd (atWord 0x6A7B).rndIdx, rndIdx := (atWord 0x6A7B).rndIdx + 1 } =
          .next t) :=
  ⟨rfl, ⟨rfl, by decide⟩, ⟨rfl, by decide⟩, rfl, by decide, by decide, _, rfl⟩

theorem witness_StoredWordsAreFetched :
    Running { State.reset with pc := 4094 } ∧ ({ State.reset with pc := 4094 } : State).memWf = true ∧
    ({ State.reset with pc := 4094 } : State).pc.toNat < 4095 := by decide

theorem witness_FatalStepsArePrecise :
    Running (atWord 0x00EE) ∧ ∃ t, stepWith 0x5A (atWord 0x00EE) = .next t ∧ t.status = .halted := ⟨rfl, _, rfl, rfl⟩

/-- Each of the four causes, and none. -/
theorem witness_FatalExactlyUnderTheNamedConditions :
    (Running { State.reset with pc := 4095 } ∧ CauseMatchesStatus { State.reset with pc := 4095 } ∧
      ∃ t, stepWith 0 { State.reset with pc := 4095 } = .next t ∧ t.cause = .pcOutOfRange) ∧
    (Running { atWord 0x2300 with sp := 16 } ∧ CauseMatchesStatus { atWord 0x2300 with sp := 16 } ∧
      ∃ t, stepWith 0 { atWord 0x2300 with sp := 16 } = .next t ∧ t.cause = .stackOverflow) ∧
    (Running (atWord 0x00EE) ∧ CauseMatchesStatus (atWord 0x00EE) ∧
      ∃ t, stepWith 0 (atWord 0x00EE) = .next t ∧ t.cause = .stackUnderflow) ∧
    (Running { atWord 0xF533 with i := 4094 } ∧ CauseMatchesStatus { atWord 0xF533 with i := 4094 } ∧
      ∃ t, stepWith 0 { atWord 0xF533 with i := 4094 } = .next t ∧ t.cause = .dataAddrOutOfRange) ∧
    (Running (atWord 0x6A7B) ∧ CauseMatchesStatus (atWord 0x6A7B) ∧
      ∃ t, stepWith 0 (atWord 0x6A7B) = .next t ∧ t.cause = .none) :=
  ⟨⟨rfl, by decide, _, rfl, rfl⟩, ⟨rfl, by decide, _, rfl, rfl⟩, ⟨rfl, by decide, _, rfl, rfl⟩,
    ⟨rfl, by decide, _, rfl, rfl⟩, ⟨rfl, by decide, _, rfl, rfl⟩⟩

/-- A step that redraws and one that does not. -/
theorem witness_RedrawReportsDisplayInstructions :
    (Running (atWord 0x00E0) ∧ ∃ t, step (atWord 0x00E0) = .next t ∧ t.redraw = true) ∧
    (Running (atWord 0x6A7B) ∧ ∃ t, step (atWord 0x6A7B) = .next t ∧ t.redraw = false) :=
  ⟨⟨rfl, _, rfl, rfl⟩, ⟨rfl, _, rfl, rfl⟩⟩

theorem witness_OnlyIndexInstructionsWriteI :
    ∃ t, exec (.drw 0 1 5) State.reset = .next t ∧ (∀ nnn, Instr.drw 0 1 5 ≠ .ldI nnn) ∧
      (∀ x, Instr.drw 0 1 5 ≠ .addI x) ∧ (∀ x, Instr.drw 0 1 5 ≠ .ldF x) := ⟨_, rfl, by simp, by simp, by simp⟩

theorem witness_OnlyDisplayInstructionsWriteDisp :
    ∃ t, exec (.ldRegs 5) State.reset = .next t ∧ Instr.ldRegs 5 ≠ .cls ∧ ∀ x y n, Instr.ldRegs 5 ≠ .drw x y n :=
  ⟨_, rfl, by simp, by simp⟩

theorem witness_OnlyStoresWriteMemory :
    ∃ t, exec (.ldRegs 5) State.reset = .next t ∧ (∀ x, Instr.ldRegs 5 ≠ .ldB x) ∧ ∀ x, Instr.ldRegs 5 ≠ .ldMem x :=
  ⟨_, rfl, by simp, by simp⟩

theorem witness_OnlyCallAndReturnTouchTheStack :
    (∃ t, exec .ret { State.reset with sp := 1 } = .next t ∧ ∀ nnn, Instr.ret ≠ .call nnn) ∧
    (∃ t, exec (.jp 0x300) State.reset = .next t ∧ (∀ nnn, Instr.jp 0x300 ≠ .call nnn) ∧ Instr.jp 0x300 ≠ .ret) :=
  ⟨⟨_, rfl, by simp⟩, ⟨_, rfl, by simp, by simp⟩⟩

theorem witness_OtherRegistersAreKept :
    ∃ t, exec (.addReg 1 2) State.reset = .next t ∧ ¬ (Instr.addReg 1 2).mayWrite 2 :=
  ⟨_, rfl, by simp only [Instr.mayWrite]; decide⟩

/-- `reset` and another command on a halted machine; a halted state itself. -/
theorem witness_ResetIsTotalAndTheOnlyWayOutOfHalted :
    haltedState.status = .halted ∧ (∃ h r, issue .reset (.live .stepping haltedState) = .next (h, r)) ∧
    (∃ h r, issue (.step 0) (.live .stepping haltedState) = .next (h, r)) := ⟨rfl, ⟨_, _, rfl⟩, ⟨_, _, rfl⟩⟩

/-- The longest program that fits and the shortest that does not; the highest byte loaded, and one outside. -/
theorem witness_LoadCopiesTheProgram :
    State.reset.memWf = true ∧ (List.replicate 3584 (0xAA : Byte)).length ≤ 3584 ∧
    3583 < (List.replicate 3584 (0xAA : Byte)).length ∧ 3584 < (List.replicate 3585 (0xAA : Byte)).length ∧
    (0x1FF < 0x200 ∨ 0x200 + 3584 ≤ 0x1FF) := by simp only [List.length_replicate]; decide

theorem witness_KeyLatchIsTheHosts :
    ∃ t, stepWith 0 (atWord 0xF10A) = .next t := ⟨_, rfl⟩

/-- The invariant holds in a state with memory written, a live return address and a running machine, and the
step from it answers a next state. -/
theorem witness_InvariantKeptByStep :
    Inv { atWord 0x6A7B with sp := 1, stack := State.reset.stack.set 0 4094, redraw := false } ∧
    ∃ t, step { atWord 0x6A7B with sp := 1, stack := State.reset.stack.set 0 4094, redraw := false } = .next t :=
  ⟨⟨by decide, by decide, by decide, by decide, by decide⟩, _, rfl⟩

/-- A machine not yet reset, and a halted one. -/
theorem witness_InvariantKeptByCommands : Sound (.unreset defaultFont) ∧ Sound (.live .stepping haltedState) :=
  ⟨trivial, rfl, by decide, by decide, by decide, by decide⟩

/-- Another command than `reset`; the longest program that fits and the shortest that does not; both phases in
which a step is taken. -/
theorem witness_BootOrderIsEnforced :
    Command.step 0 ≠ .reset ∧ (List.replicate 3584 (0xAA : Byte)).length ≤ 3584 ∧
    3584 < (List.replicate 3585 (0xAA : Byte)).length ∧
    (BootPhase.loaded = .loaded ∨ BootPhase.loaded = .stepping) ∧
    (BootPhase.stepping = .loaded ∨ BootPhase.stepping = .stepping) := by simp only [List.length_replicate]; decide

theorem witness_RunsInBootOrderReachTheirEnd :
    ([0x22, 0x00] : List Byte).length ≤ 3584 ∧
    ∀ c ∈ [Command.step 0x5A, .setKeys 0x0220], (∃ rnd, c = .step rnd) ∨ ∃ k, c = .setKeys k :=
  ⟨by decide, by simp⟩

end Sys2Proof.Tests
end

section
/-! PROOFS of the statements about the elements of state (10_state.md). -/

namespace Sys2Proof.Machine

/-! ## The reset state, element by element (10_state.md R42) -/

/-- Memory that nothing has written reads as FONT below 80. -/
theorem Memory.initial_of_lt (f : Font) {a : Nat} (h : a < 80) : Memory.initial f a = f[a] := dif_pos h

/-- Memory that nothing has written reads as 0 from 80 up. -/
theorem Memory.initial_of_le (f : Font) {a : Nat} (h : 80 ≤ a) : Memory.initial f a = 0 :=
  dif_neg (Nat.not_lt.mpr h)

/-- At reset every cell reads as the machine's initial contents. -/
@[simp] theorem State.resetWith_readByte (f : Font) (a : Nat) :
    (State.resetWith f).readByte a = Memory.initial f a := rfl

@[simp] theorem State.resetWith_reg (f : Font) (k : Reg) : (State.resetWith f).v[k] = 0 := by
  simp [State.resetWith]

@[simp] theorem State.resetWith_stack (f : Font) (k : Fin 16) : (State.resetWith f).stack[k] = 0 := by
  simp [State.resetWith]

@[simp] theorem State.resetWith_pixel (f : Font) (px : Fin 64) (py : Fin 32) :
    (State.resetWith f).disp[px][py] = false := by
  simp [State.resetWith]

@[simp] theorem State.resetWith_key (f : Font) (k : Reg) : (State.resetWith f).key[k] = false := by
  simp [State.resetWith]

/-! ## REDRAW (10_state.md R36) -/

/-- What holds of the fatal state and of the body holds of what the range check answers. -/
theorem withDataRange_next {P : State → Prop} {s body t : State} {kMax : Nat}
    (h : withDataRange s kMax body = .next t) (hfatal : P (s.raiseFatal .dataAddrOutOfRange)) (hbody : P body) :
    P t := by
  obtain ⟨-, hw⟩ | ⟨-, hw⟩ := withDataRange_cases s body kMax
  · obtain rfl := Host.Outcome.next.inj (hw.symm.trans h)
    exact hfatal
  · obtain rfl := Host.Outcome.next.inj (hw.symm.trans h)
    exact hbody

@[simp] theorem State.loadRegs_redraw (base n : Nat) (s : State) :
    (State.loadRegs base n s).redraw = s.redraw := by rw [State.loadRegs_frame]

@[simp] theorem State.storeRegs_redraw (base n : Nat) (s : State) :
    (State.storeRegs base n s).redraw = s.redraw := by rw [State.storeRegs_frame]

/-- The end of a step keeps REDRAW: the tick writes the timers and BEEP alone. -/
@[simp] theorem State.endStep_redraw (s : State) : s.endStep.redraw = s.redraw := by
  rw [State.endStep_eq]
  split
  · rfl
  · exact State.tick_redraw s

/-- `CLS` has one outcome (44_display.md R130). -/
theorem exec_cls_next {s t : State} (h : exec .cls s = .next t) :
    t = (s.setDisp Display.blank).markRedraw.advance 2 := (Host.Outcome.next.inj h).symm

/-- `DRW` is fatal exactly when it draws a row and its last row is out of range, and else completes
(44_display.md R131, R134). -/
theorem exec_drw_cases {x y : Reg} {n : Nibble} {s t : State} (h : exec (.drw x y n) s = .next t) :
    (0 < n.toNat ∧ 4096 ≤ s.i.toNat + (n.toNat - 1) ∧ t = s.raiseFatal .dataAddrOutOfRange) ∨
    ((n.toNat = 0 ∨ s.i.toNat + (n.toNat - 1) < 4096) ∧ t = s.drawn (drawSprite s x y n)) := by
  simp only [exec, execDrw] at h
  by_cases hn : n.toNat = 0
  · rw [if_pos hn] at h
    exact .inr ⟨.inl hn, (Host.Outcome.next.inj h).symm⟩
  · rw [if_neg hn] at h
    obtain ⟨hout, hw⟩ | ⟨hin, hw⟩ := withDataRange_cases s (s.drawn (drawSprite s x y n)) (n.toNat - 1)
    · exact .inl ⟨Nat.pos_of_ne_zero hn, hout, Host.Outcome.next.inj (h.symm.trans hw)⟩
    · exact .inr ⟨.inr hin, Host.Outcome.next.inj (h.symm.trans hw)⟩

/-- No instruction but `CLS` and `DRW` writes REDRAW. -/
theorem exec_keeps_redraw {i : Instr} {s t : State} (h : exec i s = .next t) (hcls : i ≠ .cls)
    (hdrw : ∀ x y n, i ≠ .drw x y n) : t.redraw = s.redraw := by
  cases i with
  | cls => exact absurd rfl hcls
  | drw x y n => exact absurd rfl (hdrw x y n)
  | ret =>
    simp only [exec, execRet] at h
    split at h <;> obtain rfl := Host.Outcome.next.inj h <;> rfl
  | call nnn =>
    simp only [exec, execCall] at h
    split at h <;> obtain rfl := Host.Outcome.next.inj h <;> rfl
  | ldVxK x =>
    simp only [exec, execLdVxK] at h
    split at h <;> obtain rfl := Host.Outcome.next.inj h <;> rfl
  | ldB x => exact withDataRange_next (P := fun u => u.redraw = s.redraw) h rfl rfl
  | ldMem x =>
    exact withDataRange_next (P := fun u => u.redraw = s.redraw) h rfl (State.storeRegs_redraw _ _ s)
  | ldRegs x =>
    exact withDataRange_next (P := fun u => u.redraw = s.redraw) h rfl (State.loadRegs_redraw _ _ s)
  | _ =>
    -- every other instruction has one outcome, built from updates that leave REDRAW alone
    obtain rfl := Host.Outcome.next.inj h
    rfl

/-- An execute phase begun running and with REDRAW clear sets it exactly when it completes a `CLS` or a `DRW`:
a draw that goes out of range halts and sets nothing. -/
theorem exec_redraw_iff {i : Instr} {s t : State} (hs : s.status = .run) (hr : s.redraw = false)
    (h : exec i s = .next t) :
    t.redraw = true ↔ t.status = .run ∧ (i = .cls ∨ ∃ x y n, i = .drw x y n) := by
  by_cases hcls : i = .cls
  · subst hcls
    obtain rfl := exec_cls_next h
    simp [hs]
  by_cases hdrw : ∃ x y n, i = .drw x y n
  · obtain ⟨x, y, n, rfl⟩ := hdrw
    obtain ⟨-, -, rfl⟩ | ⟨-, rfl⟩ := exec_drw_cases h
    · simp [hr]
    · simp [hs]
  · have hkept : t.redraw = s.redraw :=
      exec_keeps_redraw h hcls fun x y n hi => hdrw ⟨x, y, n, hi⟩
    simp [hkept, hr, hcls, hdrw]

end Sys2Proof.Machine

namespace Sys2Proof

open Sys2Proof.Machine

/-- Settles O48, from the lemmas on the reset state's arrays; its scalar elements are what `State.resetWith`
writes. -/
theorem resetValues : Obligations.ResetValues := by
  unfold Obligations.ResetValues
  refine ⟨⟨defaultFont, rfl⟩, fun f => ?_⟩
  exact ⟨fun a h => (State.resetWith_readByte f a).trans (Memory.initial_of_lt f h),
    fun a h => (State.resetWith_readByte f a).trans (Memory.initial_of_le f h),
    State.resetWith_reg f, rfl, rfl, rfl, State.resetWith_stack f, rfl, rfl, State.resetWith_pixel f,
    State.resetWith_key f, rfl, rfl, rfl, rfl⟩

/-- Settles O42, by the cases of a step: a fetch fault halts with REDRAW clear, and past it the execute phase,
begun with REDRAW clear, decides. -/
theorem redrawReportsDisplayInstructions : Obligations.RedrawReportsDisplayInstructions := by
  unfold Obligations.RedrawReportsDisplayInstructions
  refine ⟨rfl, fun s t hrun hstep => ?_⟩
  obtain ⟨hhalted, -⟩ | ⟨-, -, rfl⟩ | ⟨-, -, u, hexec, rfl⟩ := stepWith_cases hstep
  · simp [hrun] at hhalted
  · simp
  · simpa [Running] using exec_redraw_iff (s := s.beginStep _) hrun rfl hexec

end Sys2Proof
end

section
/-! PROOFS of the statements about the encoding (30_encoding.md). -/

namespace Sys2Proof

/-! ## The fields as truncations of the word (30_encoding.md R66) -/

theorem fieldX_eq_ofNat (w : Word) : fieldX w = Fin.ofNat 16 (w.toNat / 256) := Fin.ext (fieldX_val w)

theorem fieldY_eq_ofNat (w : Word) : fieldY w = Fin.ofNat 16 (w.toNat / 16) := Fin.ext (fieldY_val w)

theorem fieldN_eq_ofNat (w : Word) : fieldN w = BitVec.ofNat 4 w.toNat := BitVec.eq_of_toNat_eq (fieldN_toNat w)

theorem fieldKK_eq_ofNat (w : Word) : fieldKK w = BitVec.ofNat 8 w.toNat := BitVec.eq_of_toNat_eq (fieldKK_toNat w)

theorem fieldNNN_eq_ofNat (w : Word) : fieldNNN w = BitVec.ofNat 12 w.toNat :=
  BitVec.eq_of_toNat_eq (fieldNNN_toNat w)

/-! ## The classes with a secondary dispatch (30_encoding.md R68) -/

theorem decodeWith_class0 (d : Class0Dispatch) {w : Word} (h : w.toNat / 4096 = 0x0) :
    decodeWith d w = decodeClass0 d w := by
  rw [decodeWith, fieldClass_toNat, h]
  rfl

theorem decodeWith_class8 (d : Class0Dispatch) {w : Word} (h : w.toNat / 4096 = 0x8) :
    decodeWith d w = decodeClass8 (fieldX w) (fieldY w) (fieldN w) := by
  rw [decodeWith, fieldClass_toNat, h]
  rfl

theorem decodeWith_classE (d : Class0Dispatch) {w : Word} (h : w.toNat / 4096 = 0xE) :
    decodeWith d w = decodeClassE (fieldX w) (fieldKK w) := by
  rw [decodeWith, fieldClass_toNat, h]
  rfl

theorem decodeWith_classF (d : Class0Dispatch) {w : Word} (h : w.toNat / 4096 = 0xF) :
    decodeWith d w = decodeClassF (fieldX w) (fieldKK w) := by
  rw [decodeWith, fieldClass_toNat, h]
  rfl

/-! ## Class 0 under each CLASS0_DISPATCH (30_encoding.md R73) -/

@[simp] theorem isCls_lowByte (w : Word) : isCls .lowByte w = true ↔ w.toNat % 256 = 0xE0 := by
  simp [isCls, ← BitVec.toNat_inj, fieldKK_toNat]

@[simp] theorem isRet_lowByte (w : Word) : isRet .lowByte w = true ↔ w.toNat % 256 = 0xEE := by
  simp [isRet, ← BitVec.toNat_inj, fieldKK_toNat]

@[simp] theorem isCls_fullWord (w : Word) : isCls .fullWord w = true ↔ w.toNat % 4096 = 0x0E0 := by
  simp [isCls, ← BitVec.toNat_inj, fieldNNN_toNat]

@[simp] theorem isRet_fullWord (w : Word) : isRet .fullWord w = true ↔ w.toNat % 4096 = 0x0EE := by
  simp [isRet, ← BitVec.toNat_inj, fieldNNN_toNat]

@[simp] theorem isCls_lowNibble (w : Word) : isCls .lowNibble w = true ↔ w.toNat % 16 = 0x0 := by
  simp [isCls, ← BitVec.toNat_inj, fieldN_toNat]

@[simp] theorem isRet_lowNibble (w : Word) : isRet .lowNibble w = true ↔ w.toNat % 16 = 0xE := by
  simp [isRet, ← BitVec.toNat_inj, fieldN_toNat]

/-! ## The no-op rows and the unrecognised words (30_encoding.md R74) -/

/-- The ten rows of the opcode map that are no-ops (30_encoding.md R69, R74). -/
def Instr.isNoOp : Instr → Bool
  | .sys _ | .nop88 _ _ | .nop89 _ _ | .nop8A _ _ | .nop8B _ _ | .nop8C _ _ | .nop8D _ _ | .nop8F _ _
  | .nopE _ _ | .nopF _ _ => true
  | _ => false

theorem decodeClass0_lowByte_isNoOp {w : Word} (h : w.toNat % 256 ∉ [0xE0, 0xEE]) :
    (decodeClass0 .lowByte w).isNoOp = true := by
  simp only [List.mem_cons, List.not_mem_nil, or_false, not_or] at h
  obtain ⟨hcls, hret⟩ := h
  rw [decodeClass0, if_neg (mt (isCls_lowByte w).mp hcls), if_neg (mt (isRet_lowByte w).mp hret)]
  rfl

theorem decodeClass8_isNoOp (x y : Reg) {n : Nibble}
    (h : n.toNat ∈ [0x8, 0x9, 0xA, 0xB, 0xC, 0xD, 0xF]) : (decodeClass8 x y n).isNoOp = true := by
  simp only [List.mem_cons, List.not_mem_nil, or_false] at h
  unfold decodeClass8
  rcases h with h | h | h | h | h | h | h <;> rw [h] <;> rfl

theorem decodeClassE_isNoOp (x : Reg) {kk : Byte} (h : kk.toNat ∉ [0x9E, 0xA1]) :
    (decodeClassE x kk).isNoOp = true := by
  unfold decodeClassE
  split
  case h_3 => rfl
  -- in the other branches `kk` is a named low byte
  all_goals simp_all

theorem decodeClassF_isNoOp (x : Reg) {kk : Byte}
    (h : kk.toNat ∉ [0x07, 0x0A, 0x15, 0x18, 0x1E, 0x29, 0x33, 0x55, 0x65]) :
    (decodeClassF x kk).isNoOp = true := by
  unfold decodeClassF
  split
  case h_10 => rfl
  -- in the other branches `kk` is a named low byte
  all_goals simp_all

end Sys2Proof

namespace Sys2Proof.Machine

/-- A no-op row has one outcome: PC advanced by 2. -/
theorem exec_of_isNoOp {i : Instr} (s : State) (h : i.isNoOp = true) : exec i s = .next (s.advance 2) := by
  cases i with
  | sys | nop88 | nop89 | nop8A | nop8B | nop8C | nop8D | nop8F | nopE | nopF => rfl
  | _ => cases h

/-- A running step in range that fetches a no-op row advances PC by 2 and ticks. -/
theorem stepWith_of_isNoOp {s : State} (rnd : Byte) (hrun : s.status = .run) (hpc : s.pc.toNat < 4095)
    (h : (decode s.fetchWord).isNoOp = true) : stepWith rnd s = .next ((s.beginStep rnd).advance 2).tick := by
  rw [stepWith_inRange hrun hpc (exec_of_isNoOp _ h), State.endStep_eq, if_neg (by simp [hrun])]

end Sys2Proof.Machine

namespace Sys2Proof

open Sys2Proof.Machine

/-- Settles O5: with the fields as numbers the decoder is a match on the class, and a single-instruction class
looks at nothing else. -/
theorem singleInstructionClasses : Obligations.SingleInstructionClasses := by
  unfold Obligations.SingleInstructionClasses
  intro d w
  simp only [decodeWith, fieldClass_toNat, fieldX_eq_ofNat, fieldY_eq_ofNat, fieldN_eq_ofNat, fieldKK_eq_ofNat,
    fieldNNN_eq_ofNat]
  and_intros
  all_goals
    intro hclass
    rw [hclass]
    rfl

/-- Settles O6: in classes 8, E and F the decoder goes on to a match on the low nibble or the low byte. -/
theorem secondaryDispatchSelects : Obligations.SecondaryDispatchSelects := by
  unfold Obligations.SecondaryDispatchSelects
  rintro d w x y rfl rfl
  rw [← fieldX_eq_ofNat, ← fieldY_eq_ofNat]
  refine ⟨fun hclass => ?_, fun hclass => ?_, fun hclass => ?_⟩
  · rw [decodeWith_class8 d hclass, decodeClass8, fieldN_toNat]
    and_intros
    all_goals
      intro hn
      rw [hn]
      rfl
  · rw [decodeWith_classE d hclass, decodeClassE, fieldKK_toNat]
    and_intros
    all_goals
      intro hkk
      rw [hkk]
      rfl
  · rw [decodeWith_classF d hclass, decodeClassF, fieldKK_toNat]
    and_intros
    all_goals
      intro hkk
      rw [hkk]
      rfl

/-- Settles O7, from what `isCls` and `isRet` compare under each value; a class-0 word is its own low 12 bits. -/
theorem classZeroDispatch : Obligations.ClassZeroDispatch := by
  unfold Obligations.ClassZeroDispatch
  refine ⟨fun w hw => ?_, fun d => ?_, rfl⟩
  · have hclass : w.toNat / 4096 = 0x0 := Nat.div_eq_of_lt hw
    have hlow : w.toNat % 4096 = w.toNat := Nat.mod_eq_of_lt hw
    simp only [decodeWith_class0 _ hclass, decodeClass0, fieldNNN_eq_ofNat, isCls_lowByte, isRet_lowByte,
      isCls_fullWord, isRet_fullWord, isCls_lowNibble, isRet_lowNibble, hlow, and_self]
  · cases d <;> decide

/-- Settles O8: an unrecognised word decodes to a no-op row, which only advances PC by 2, and the step that
runs it ticks. -/
theorem unrecognisedWordsAreNoOps : Obligations.UnrecognisedWordsAreNoOps := by
  unfold Obligations.UnrecognisedWordsAreNoOps
  intro w s hw
  have hnop : (decode w).isNoOp = true := by
    obtain ⟨hclass, hlow⟩ | ⟨hclass, hlow⟩ | ⟨hclass, hlow⟩ | ⟨hclass, hlow⟩ := hw
    · rw [decode, decodeWith_class0 _ hclass]
      exact decodeClass0_lowByte_isNoOp hlow
    · rw [decode, decodeWith_class8 _ hclass]
      exact decodeClass8_isNoOp _ _ (by rwa [fieldN_toNat])
    · rw [decode, decodeWith_classE _ hclass]
      exact decodeClassE_isNoOp _ (by rwa [fieldKK_toNat])
    · rw [decode, decodeWith_classF _ hclass]
      exact decodeClassF_isNoOp _ (by rwa [fieldKK_toNat])
  refine ⟨exec_of_isNoOp s hnop, fun hrun hpc hfetch rnd => ?_⟩
  exact stepWith_of_isNoOp rnd hrun hpc (hfetch ▸ hnop)

end Sys2Proof
end

section
/-! PROOFS of the statements about the step and its tick (40_cycle.md). -/

namespace Sys2Proof.Machine

/-! ## The three ways through a step, forwards (40_cycle.md R80) -/

/-- A step of a halted machine changes nothing (40_cycle.md R81). -/
theorem stepWith_of_halted (rnd : Byte) {s : State} (h : s.status = .halted) : stepWith rnd s = .next s := by
  simp only [stepWith, h]

/-- A running step that cannot fetch is fatal and nothing else (20_memory.md R48). -/
theorem stepWith_outOfRange (rnd : Byte) {s : State} (hrun : s.status = .run) (hpc : 4095 ≤ s.pc.toNat) :
    stepWith rnd s = .next ((s.beginStep rnd).raiseFatal .pcOutOfRange) := by
  have hcheck : s.fetchOutOfRange = true := (State.fetchOutOfRange_iff s).mpr hpc
  simp only [stepWith, hrun, State.fetchOutOfRange_beginStep, hcheck, if_true]

/-- The end of a step that leaves the machine running is the tick (40_cycle.md R88). -/
theorem State.endStep_of_running {s : State} (h : s.status = .run) : s.endStep = s.tick := by
  simp [State.endStep_eq, h]

/-- The end of a fatal step does nothing (40_cycle.md R88). -/
theorem State.endStep_of_halted {s : State} (h : s.status = .halted) : s.endStep = s := by
  simp [State.endStep_eq, h]

/-- The tick takes one off each timer, down to 0, and from a clear BEEP sets it exactly when ST was 1
(46_timers.md R147). -/
theorem State.tick_timers {s : State} (hbeep : s.beep = false) :
    s.tick.dt.toNat = s.dt.toNat - 1 ∧ s.tick.st.toNat = s.st.toNat - 1 ∧ (s.tick.beep = true ↔ s.st = 1) := by
  refine ⟨decTimer_toNat s.dt, decTimer_toNat s.st, ?_⟩
  by_cases hst : s.st = 1 <;> simp [hst, hbeep]

/-! ## What an instruction leaves in the timers (46_timers.md R146, R148) -/

/-- `t` has the timers and the BEEP output of `s`. -/
def SameTimers (s t : State) : Prop := t.dt = s.dt ∧ t.st = s.st ∧ t.beep = s.beep

theorem State.loadRegs_sameTimers (base n : Nat) (s : State) : SameTimers s (State.loadRegs base n s) := by
  rw [State.loadRegs_frame]
  exact ⟨rfl, rfl, rfl⟩

theorem State.storeRegs_sameTimers (base n : Nat) (s : State) : SameTimers s (State.storeRegs base n s) := by
  rw [State.storeRegs_frame]
  exact ⟨rfl, rfl, rfl⟩

/-- Only `LD DT, Vx` and `LD ST, Vx` write a timer, and no instruction writes BEEP. -/
theorem exec_sameTimers {i : Instr} {s t : State} (h : exec i s = .next t) (hdt : ∀ x, i ≠ .ldDt x)
    (hst : ∀ x, i ≠ .ldSt x) : SameTimers s t := by
  cases i with
  | ldDt x => exact absurd rfl (hdt x)
  | ldSt x => exact absurd rfl (hst x)
  | ret =>
    simp only [exec, execRet] at h
    split at h <;> obtain rfl := Host.Outcome.next.inj h <;> exact ⟨rfl, rfl, rfl⟩
  | call nnn =>
    simp only [exec, execCall] at h
    split at h <;> obtain rfl := Host.Outcome.next.inj h <;> exact ⟨rfl, rfl, rfl⟩
  | ldVxK x =>
    simp only [exec, execLdVxK] at h
    split at h <;> obtain rfl := Host.Outcome.next.inj h <;> exact ⟨rfl, rfl, rfl⟩
  | drw x y n =>
    obtain ⟨-, -, rfl⟩ | ⟨-, rfl⟩ := exec_drw_cases h <;> exact ⟨rfl, rfl, rfl⟩
  | ldB x => exact withDataRange_next (P := SameTimers s) h ⟨rfl, rfl, rfl⟩ ⟨rfl, rfl, rfl⟩
  | ldMem x =>
    exact withDataRange_next (P := SameTimers s) h ⟨rfl, rfl, rfl⟩ (State.storeRegs_sameTimers _ _ s)
  | ldRegs x =>
    exact withDataRange_next (P := SameTimers s) h ⟨rfl, rfl, rfl⟩ (State.loadRegs_sameTimers _ _ s)
  | _ =>
    -- every other instruction has one outcome, built from updates that leave the timers and BEEP alone
    obtain rfl := Host.Outcome.next.inj h
    exact ⟨rfl, rfl, rfl⟩

/-- Everything an instruction can do to the timers. -/
theorem exec_timer_cases {i : Instr} {s t : State} (h : exec i s = .next t) :
    (∃ x, i = .ldDt x ∧ t = (s.setDt s.v[x]).advance 2) ∨
    (∃ x, i = .ldSt x ∧ t = (s.setSt s.v[x]).advance 2) ∨
    ((∀ x, i ≠ .ldDt x) ∧ (∀ x, i ≠ .ldSt x) ∧ SameTimers s t) := by
  by_cases hdt : ∃ x, i = .ldDt x
  · obtain ⟨x, rfl⟩ := hdt
    exact .inl ⟨x, rfl, (Host.Outcome.next.inj h).symm⟩
  by_cases hst : ∃ x, i = .ldSt x
  · obtain ⟨x, rfl⟩ := hst
    exact .inr (.inl ⟨x, rfl, (Host.Outcome.next.inj h).symm⟩)
  · rw [not_exists] at hdt hst
    exact .inr (.inr ⟨hdt, hst, exec_sameTimers h hdt hst⟩)

/-- No instruction writes BEEP: only the tick sets it. -/
theorem exec_keeps_beep {i : Instr} {s t : State} (h : exec i s = .next t) : t.beep = s.beep := by
  obtain ⟨x, -, rfl⟩ | ⟨x, -, rfl⟩ | ⟨-, -, -, -, hbeep⟩ := exec_timer_cases h
  · rfl
  · rfl
  · exact hbeep

end Sys2Proof.Machine

namespace Sys2Proof

open Sys2Proof.Machine

/-- Settles O36, by the cases of a step and of what its instruction does to the timers: the tick of a running
outcome takes one off each, and a halted one is a fetch fault or an instruction that writes no timer. -/
theorem stepsTickTheTimers : Obligations.StepsTickTheTimers := by
  unfold Obligations.StepsTickTheTimers
  intro s t hrun hstep
  obtain ⟨hhalted, -⟩ | ⟨-, -, rfl⟩ | ⟨-, -, u, hexec, rfl⟩ := stepWith_cases hstep
  · simp [hrun] at hhalted
  · simp [Running]
  · rw [Running, State.endStep_status]
    refine ⟨fun hu => ?_, fun hu => ?_⟩
    · rw [State.endStep_of_running hu]
      have htick := State.tick_timers (exec_keeps_beep hexec)
      obtain ⟨x, hi, rfl⟩ | ⟨x, hi, rfl⟩ | ⟨hdt, hst, hdt', hst', -⟩ := exec_timer_cases hexec
      · simpa [hi] using htick
      · simpa [hi] using htick
      · simpa [hdt, hst, hdt', hst'] using htick
    · rw [State.endStep_of_halted hu]
      obtain ⟨x, -, rfl⟩ | ⟨x, -, rfl⟩ | ⟨-, -, hsame⟩ := exec_timer_cases hexec
      · simp [hrun] at hu
      · simp [hrun] at hu
      · exact hsame

/-- Settles O37, clause by clause: `s'` is the state a running step begins from. -/
theorem stepRunsTheDecodedInstruction : Obligations.StepRunsTheDecodedInstruction := by
  unfold Obligations.StepRunsTheDecodedInstruction
  rintro s s' rfl
  refine ⟨stepWith_of_halted _, stepWith_outOfRange _, ?_⟩
  rintro i t hrun hpc rfl hexec
  rw [← State.endStep_eq]
  exact stepWith_inRange hrun hpc hexec

end Sys2Proof
end

section
/-! PROOFS of the statements about control transfer (41_control.md). -/

namespace Sys2Proof.Machine

/-! ## Targets and skips (30_encoding.md R67, 40_cycle.md R86) -/

/-- The jump target is the 12-bit field with four zero bits above it. -/
theorem zextAddr_eq_ofNat (nnn : Addr12) : zextAddr nnn = BitVec.ofNat 16 nnn.toNat :=
  (BitVec.ofNat_toNat 16 nnn).symm

@[simp] theorem zextAddr_toNat (nnn : Addr12) : (zextAddr nnn).toNat = nnn.toNat :=
  BitVec.toNat_setWidth_of_le (by decide)

/-- NNN and V0 together stay far below 65536, so the 16-bit sum is the exact one. -/
theorem indexedTarget_toNat (s : State) (nnn : Addr12) :
    (indexedTarget s nnn).toNat = nnn.toNat + s.v[0].toNat := by
  have hv0 : ((s.reg 0).setWidth 16).toNat = s.v[0].toNat := BitVec.toNat_setWidth_of_le (by decide)
  rw [indexedTarget, BitVec.toNat_add_of_lt, zextAddr_toNat, hv0]
  rw [zextAddr_toNat, hv0]
  omega

/-- A skip writes PC alone: it goes past one more instruction exactly when its condition holds. -/
theorem State.skipIf_of_iff (s : State) {c : Bool} {p : Prop} [Decidable p] (h : c = true ↔ p) :
    s.skipIf c = { s with pc := if p then s.pc + 4 else s.pc + 2 } := by
  by_cases hp : p <;> simp [State.skipIf, State.advance, h, hp]

/-! ## The call stack (41_control.md R94, R96) -/

/-- A push onto `k` return addresses writes entry `k`. -/
theorem State.pushPc_of_sp {s : State} {k : Fin 16} (hk : s.sp = k.castSucc) (h : s.sp.val < 16) :
    s.pushPc h = { s with stack := s.stack.set k s.pc, sp := k.succ } := by
  cases s
  subst hk
  rfl

/-- A pop from `k + 1` return addresses reads entry `k` and leaves it there. -/
theorem State.popPc_of_sp {s : State} {k : Fin 16} (hk : s.sp = k.succ) (h : 0 < s.sp.val) :
    s.popPc h = { s with sp := k.castSucc, pc := s.stack[k] + 2 } := by
  cases s
  subst hk
  rfl

theorem exec_ret_of_pos {s : State} (h : 0 < s.sp.val) : exec .ret s = .next (s.popPc h) := dif_pos h

theorem exec_ret_of_empty {s : State} (h : s.sp.val = 0) :
    exec .ret s = .next (s.raiseFatal .stackUnderflow) := dif_neg (by omega)

theorem exec_call_of_room {s : State} (nnn : Addr12) (h : s.sp.val < 16) :
    exec (.call nnn) s = .next ((s.pushPc h).setPc (zextAddr nnn)) := dif_pos h

theorem exec_call_of_full {s : State} (nnn : Addr12) (h : s.sp.val = 16) :
    exec (.call nnn) s = .next (s.raiseFatal .stackOverflow) := dif_neg (by omega)

end Sys2Proof.Machine

namespace Sys2Proof

open Sys2Proof.Machine

/-- Settles O15: the sum of a 12-bit and an 8-bit number does not wrap, and the jump writes PC alone. -/
theorem indexedJumpAddsV0 : Obligations.IndexedJumpAddsV0 := by
  unfold Obligations.IndexedJumpAddsV0
  intro s nnn
  have hsum : (s.setPc (indexedTarget s nnn)).pc.toNat = nnn.toNat + s.v[0].toNat := indexedTarget_toNat s nnn
  exact ⟨s.setPc (indexedTarget s nnn), rfl, hsum, by omega, rfl⟩

/-- Settles O10, by whether a return address is held. -/
theorem returnPopsOrUnderflows : Obligations.ReturnPopsOrUnderflows := by
  unfold Obligations.ReturnPopsOrUnderflows
  refine fun s => ⟨fun k hk => ?_, exec_ret_of_empty⟩
  have hpos : 0 < s.sp.val := by omega
  rw [exec_ret_of_pos hpos, State.popPc_of_sp (Fin.ext hk)]

/-- Settles O11: the jump is the one write of PC. -/
theorem jumpSetsPc : Obligations.JumpSetsPc := by
  unfold Obligations.JumpSetsPc
  intro s nnn
  rw [← zextAddr_eq_ofNat]
  rfl

/-- Settles O12, by whether the stack has room. -/
theorem callPushesOrOverflows : Obligations.CallPushesOrOverflows := by
  unfold Obligations.CallPushesOrOverflows
  refine fun s nnn => ⟨fun k hk => ?_, exec_call_of_full nnn⟩
  have hroom : s.sp.val < 16 := by omega
  rw [exec_call_of_room nnn hroom, State.pushPc_of_sp (Fin.ext hk), zextAddr_eq_ofNat, State.setPc]

/-- Settles O14: each of the four is a skip whose Boolean condition decides its comparison. -/
theorem comparisonSkips : Obligations.ComparisonSkips := by
  unfold Obligations.ComparisonSkips
  intro s x y kk
  refine ⟨?seByte, ?sneByte, ?seReg, ?sneReg⟩
  case seByte => exact congrArg Host.Outcome.next (s.skipIf_of_iff beq_iff_eq)
  case sneByte => exact congrArg Host.Outcome.next (s.skipIf_of_iff bne_iff_ne)
  case seReg => exact congrArg Host.Outcome.next (s.skipIf_of_iff beq_iff_eq)
  case sneReg => exact congrArg Host.Outcome.next (s.skipIf_of_iff bne_iff_ne)

end Sys2Proof
end

section
/-! PROOFS of the statements about the ALU (42_alu.md). -/

namespace Sys2Proof.Machine

/-! ## Results and flags as numbers (42_alu.md R105, R106) -/

theorem flagByte_decide (p : Prop) [Decidable p] : flagByte (decide p) = if p then 1 else 0 := by
  simp only [flagByte, decide_eq_true_eq]

@[simp] theorem flagByte_toNat (b : Bool) : (flagByte b).toNat = b.toNat := by
  cases b <;> rfl

@[simp] theorem wrapSum_toNat (a b : Byte) : (wrapSum a b).toNat = (a.toNat + b.toNat) % 256 := by
  rw [wrapSum, exactSum, BitVec.toNat_ofNat, Nat.mod_mod]

@[simp] theorem wrapDiff_toNat (a b : Byte) : (wrapDiff a b).toNat = (a.toNat + 256 - b.toNat) % 256 := by
  rw [wrapDiff, BitVec.toNat_ofNat, Nat.mod_mod]

theorem carryFlag_eq (a b : Byte) : carryFlag a b = if a.toNat + b.toNat > 255 then 1 else 0 :=
  flagByte_decide _

theorem noBorrowFlag_eq (a b : Byte) : noBorrowFlag a b = if a.toNat ≥ b.toNat then 1 else 0 :=
  flagByte_decide _

theorem shrResult_toNat (a : Byte) : (a >>> 1).toNat = a.toNat / 2 := by
  rw [BitVec.toNat_ushiftRight, Nat.shiftRight_eq_div_pow, pow_one]

theorem shlResult_toNat (a : Byte) : (a <<< 1).toNat = a.toNat * 2 % 256 := by
  rw [BitVec.toNat_shiftLeft, Nat.shiftLeft_eq, pow_one]

/-- Bit 0 is the remainder of the halving. -/
theorem shrFlag_toNat (a : Byte) : (shrFlag a).toNat = a.toNat % 2 := by
  rw [shrFlag, flagByte_toNat, BitVec.getLsbD, Nat.toNat_testBit, pow_zero, Nat.div_one]

/-- Bit 7 is the top bit: nothing stands above it. -/
theorem shlFlag_toNat (a : Byte) : (shlFlag a).toNat = a.toNat / 128 := by
  have hlt : a.toNat < 256 := a.isLt
  rw [shlFlag, flagByte_toNat, BitVec.getLsbD, Nat.toNat_testBit]
  omega

/-! ## What a flag-writing operation leaves (42_alu.md R106) -/

/-- The result is in V[x] unless VF took its place, the flag is in VF, and only those two and PC are written. -/
theorem exec_writeResultFlag {i : Instr} {s : State} {x : Reg} {r f : Byte}
    (h : exec i s = .next ((s.writeResultFlag x r f).advance 2)) :
    ∃ t, exec i s = .next t ∧ (x ≠ 15 → t.v[x] = r) ∧ t.v[15] = f ∧
      (∀ k : Reg, k ≠ x → k ≠ 15 → t.v[k] = s.v[k]) ∧ t = { s with v := t.v, pc := s.pc + 2 } := by
  have hv (k : Reg) : ((s.writeResultFlag x r f).advance 2).v[k] =
      if k = vf then f else if k = x then r else s.v[k] := reg_set_flag s.v x k r f
  refine ⟨_, h, fun hx => ?_, hv 15, fun k hkx hkf => ?_, rfl⟩
  · rw [hv, if_neg hx, if_pos rfl]
  · rw [hv, if_neg hkf, if_neg hkx]

theorem exec_addReg (s : State) (x y : Reg) : exec (.addReg x y) s =
    .next ((s.writeResultFlag x (wrapSum s.v[x] s.v[y]) (carryFlag s.v[x] s.v[y])).advance 2) := rfl

theorem exec_sub (s : State) (x y : Reg) : exec (.sub x y) s =
    .next ((s.writeResultFlag x (wrapDiff s.v[x] s.v[y]) (noBorrowFlag s.v[x] s.v[y])).advance 2) := rfl

theorem exec_subn (s : State) (x y : Reg) : exec (.subn x y) s =
    .next ((s.writeResultFlag x (wrapDiff s.v[y] s.v[x]) (noBorrowFlag s.v[y] s.v[x])).advance 2) := rfl

theorem exec_shr (s : State) (x y : Reg) : exec (.shr x y) s =
    .next ((s.writeResultFlag x (s.v[x] >>> 1) (shrFlag s.v[x])).advance 2) := rfl

theorem exec_shl (s : State) (x y : Reg) : exec (.shl x y) s =
    .next ((s.writeResultFlag x (s.v[x] <<< 1) (shlFlag s.v[x])).advance 2) := rfl

/-! ## The random byte (42_alu.md R119) -/

/-- A running step in range that fetches `RND Vx, byte` masks its own random byte into V[x] and ticks. -/
theorem stepWith_of_rnd {s : State} {x : Reg} {kk : Byte} (rnd : Byte) (hrun : s.status = .run)
    (hpc : s.pc.toNat < 4095) (hdec : decode s.fetchWord = .rnd x kk) :
    stepWith rnd s = .next (((s.beginStep rnd).setReg x (rnd &&& kk)).advance 2).tick := by
  have hexec : exec (decode s.fetchWord) (s.beginStep rnd) =
      .next (((s.beginStep rnd).setReg x (rnd &&& kk)).advance 2) := by
    rw [hdec]
    rfl
  rw [stepWith_inRange hrun hpc hexec, State.endStep_of_running (by simp [hrun])]

end Sys2Proof.Machine

namespace Sys2Proof

open Sys2Proof.Machine

/-- Settles O18: the carry goes to VF after the wrapped sum went to V[X]. -/
theorem addSetsCarry : Obligations.AddSetsCarry := by
  unfold Obligations.AddSetsCarry
  intro s x y
  obtain ⟨t, hexec, hres, hflag, hframe⟩ := exec_writeResultFlag (exec_addReg s x y)
  exact ⟨t, hexec, fun hx => by rw [hres hx, wrapSum_toNat], by rw [hflag, carryFlag_eq], hframe⟩

/-- Settles O19: each writes NOT borrow to VF after the wrapped difference, `SUBN` with its operands exchanged. -/
theorem subtractsSetNoBorrow : Obligations.SubtractsSetNoBorrow := by
  unfold Obligations.SubtractsSetNoBorrow
  refine fun s x y => ⟨?sub, ?subn⟩
  case sub =>
    obtain ⟨t, hexec, hres, hflag, hframe⟩ := exec_writeResultFlag (exec_sub s x y)
    exact ⟨t, hexec, fun hx => by rw [hres hx, wrapDiff_toNat], by rw [hflag, noBorrowFlag_eq], hframe⟩
  case subn =>
    obtain ⟨t, hexec, hres, hflag, hframe⟩ := exec_writeResultFlag (exec_subn s x y)
    exact ⟨t, hexec, fun hx => by rw [hres hx, wrapDiff_toNat], by rw [hflag, noBorrowFlag_eq], hframe⟩

/-- Settles O20: each writes the bit put out to VF after the shifted value, and neither reads V[Y]. -/
theorem shiftsPutOutTheirBit : Obligations.ShiftsPutOutTheirBit := by
  unfold Obligations.ShiftsPutOutTheirBit
  refine fun s x y => ⟨?shr, ?shl⟩
  case shr =>
    obtain ⟨t, hexec, hres, hflag, hframe⟩ := exec_writeResultFlag (exec_shr s x y)
    exact ⟨t, hexec, fun hx => by rw [hres hx, shrResult_toNat], by rw [hflag, shrFlag_toNat], hframe⟩
  case shl =>
    obtain ⟨t, hexec, hres, hflag, hframe⟩ := exec_writeResultFlag (exec_shl s x y)
    exact ⟨t, hexec, fun hx => by rw [hres hx, shlResult_toNat], by rw [hflag, shlFlag_toNat], hframe⟩

/-- Settles O22: masking with KK is idempotent, so a reachable byte is within KK, and a byte within KK is
reached by the random byte that equals it. -/
theorem randomAdmitsExactlyTheMaskedBytes : Obligations.RandomAdmitsExactlyTheMaskedBytes := by
  unfold Obligations.RandomAdmitsExactlyTheMaskedBytes
  intro s x kk b hrun hpc hdec
  have hwritten (rnd : Byte) : (((s.beginStep rnd).setReg x (rnd &&& kk)).advance 2).tick.v[x] = rnd &&& kk := by
    simp
  constructor
  · rintro ⟨rnd, t, hstep, rfl⟩
    obtain rfl := Host.Outcome.next.inj ((stepWith_of_rnd rnd hrun hpc hdec).symm.trans hstep)
    rw [hwritten, BitVec.and_assoc, BitVec.and_self]
  · intro hb
    exact ⟨b, _, stepWith_of_rnd b hrun hpc hdec, (hwritten b).trans hb⟩

/-- Settles O16: each writes V[X] and PC, and the sum is `wrapSum`. -/
theorem immediateOperations : Obligations.ImmediateOperations := by
  unfold Obligations.ImmediateOperations
  exact fun s x kk => ⟨rfl, rfl⟩

/-- Settles O17: each reads both registers, then writes V[X] and PC. -/
theorem registerLogicOperations : Obligations.RegisterLogicOperations := by
  unfold Obligations.RegisterLogicOperations
  exact fun s x y => ⟨rfl, rfl, rfl, rfl⟩

/-- Settles O21: the execute phase masks the byte in the state, which a step has set to its own. -/
theorem randomIsMasked : Obligations.RandomIsMasked := by
  unfold Obligations.RandomIsMasked
  refine fun s x kk => ⟨rfl, fun hrun hpc hdec rnd => ?_⟩
  exact ⟨_, stepWith_of_rnd rnd hrun hpc hdec, rfl, rfl⟩

end Sys2Proof
end

section
/-! PROOFS of the statements about the index register, loads and stores (43_index_memory.md). -/

namespace Sys2Proof.Machine

/-! ## Addresses and digits as numbers (20_memory.md R63, 43_index_memory.md R122 to R124) -/

/-- Byte `k` of a block that starts at `I` is at the data address `I + k`. -/
theorem dataAddr_zero_add (s : State) (k : Nat) : dataAddr s 0 + k = dataAddr s k := rfl

/-- The 16-bit sum of I and a register is the exact sum modulo 65536. -/
theorem indexSum_eq_ofNat (i : Word) (b : Byte) :
    i + b.setWidth 16 = BitVec.ofNat 16 ((i.toNat + b.toNat) % 65536) := by
  apply BitVec.eq_of_toNat_eq
  have hb : (b.setWidth 16).toNat = b.toNat := BitVec.toNat_setWidth_of_le (by decide)
  rw [BitVec.toNat_add, hb, BitVec.toNat_ofNat, Nat.mod_mod]

/-- The mask 0xF keeps the remainder modulo 16. -/
theorem glyphAddr_eq_ofNat (b : Byte) : glyphAddr b = BitVec.ofNat 16 (5 * (b.toNat % 16)) := by
  have hlow : (b &&& 0xF).toNat = b.toNat % 16 := Nat.and_two_pow_sub_one_eq_mod b.toNat 4
  rw [glyphAddr, hlow]

@[simp] theorem decimalDigits_length (b : Byte) : (decimalDigits b).length = 3 := rfl

/-- The three digits of a byte are numbers below 256, so their bytes hold them exactly. -/
theorem decimalDigits_toNat (b : Byte) :
    (decimalDigits b)[0].toNat = b.toNat / 100 ∧ (decimalDigits b)[1].toNat = b.toNat / 10 % 10 ∧
      (decimalDigits b)[2].toNat = b.toNat % 10 := by
  have hb : b.toNat < 256 := b.isLt
  simp only [decimalDigits, List.getElem_cons_zero, List.getElem_cons_succ, BitVec.toNat_ofNat]
  omega

/-! ## Memory behind an advance of PC -/

@[simp] theorem State.readByte_advance (s : State) (k : Word) (a : Nat) :
    (s.advance k).readByte a = s.readByte a := rfl

/-! ## What each load and store answers (43_index_memory.md R124 to R126) -/

theorem exec_ldB (s : State) (x : Reg) : exec (.ldB x) s =
    withDataRange s 2 ((s.writeBytes (dataAddr s 0) (decimalDigits s.v[x])).advance 2) := rfl

theorem exec_ldMem (s : State) (x : Reg) : exec (.ldMem x) s =
    withDataRange s x.val ((State.storeRegs (dataAddr s 0) (x.val + 1) s).advance 2) := rfl

theorem exec_ldRegs (s : State) (x : Reg) : exec (.ldRegs x) s =
    withDataRange s x.val ((State.loadRegs (dataAddr s 0) (x.val + 1) s).advance 2) := rfl

/-! ## I (10_state.md R23) -/

@[simp] theorem State.loadRegs_i (base n : Nat) (s : State) : (State.loadRegs base n s).i = s.i := by
  rw [State.loadRegs_frame]

@[simp] theorem State.storeRegs_i (base n : Nat) (s : State) : (State.storeRegs base n s).i = s.i := by
  rw [State.storeRegs_frame]

/-- `RET` pops a live entry or is fatal (41_control.md R94). -/
theorem exec_ret_cases {s t : State} (h : exec .ret s = .next t) :
    (∃ hpos : 0 < s.sp.val, t = s.popPc hpos) ∨ (s.sp.val = 0 ∧ t = s.raiseFatal .stackUnderflow) := by
  by_cases hsp : s.sp.val = 0
  · exact .inr ⟨hsp, Host.Outcome.next.inj (h.symm.trans (exec_ret_of_empty hsp))⟩
  · have hpos : 0 < s.sp.val := Nat.pos_of_ne_zero hsp
    exact .inl ⟨hpos, Host.Outcome.next.inj (h.symm.trans (exec_ret_of_pos hpos))⟩

/-- `CALL` pushes and jumps, or is fatal (41_control.md R96). -/
theorem exec_call_cases {nnn : Addr12} {s t : State} (h : exec (.call nnn) s = .next t) :
    (∃ hroom : s.sp.val < 16, t = (s.pushPc hroom).setPc (zextAddr nnn)) ∨
    (s.sp.val = 16 ∧ t = s.raiseFatal .stackOverflow) := by
  by_cases hroom : s.sp.val < 16
  · exact .inl ⟨hroom, Host.Outcome.next.inj (h.symm.trans (exec_call_of_room nnn hroom))⟩
  · have hfull : s.sp.val = 16 := by omega
    exact .inr ⟨hfull, Host.Outcome.next.inj (h.symm.trans (exec_call_of_full nnn hfull))⟩

/-- `LD Vx, K` stores the key the scan finds, or is blocked with nothing changed (45_input.md R141). -/
theorem exec_ldVxK_cases {x : Reg} {s t : State} (h : exec (.ldVxK x) s = .next t) :
    (∃ k, s.firstKey = some k ∧ t = (s.setReg x (BitVec.ofNat 8 k.val)).advance 2) ∨
    (s.firstKey = none ∧ t = s) := by
  simp only [exec, execLdVxK] at h
  cases hkey : s.firstKey with
  | some k =>
    rw [hkey] at h
    exact .inl ⟨k, rfl, (Host.Outcome.next.inj h).symm⟩
  | none =>
    rw [hkey] at h
    exact .inr ⟨rfl, (Host.Outcome.next.inj h).symm⟩

/-- No instruction but `LD I`, `ADD I` and `LD F` writes I. -/
theorem exec_keeps_i {i : Instr} {s t : State} (h : exec i s = .next t) (hldI : ∀ nnn, i ≠ .ldI nnn)
    (haddI : ∀ x, i ≠ .addI x) (hldF : ∀ x, i ≠ .ldF x) : t.i = s.i := by
  cases i with
  | ldI nnn => exact absurd rfl (hldI nnn)
  | addI x => exact absurd rfl (haddI x)
  | ldF x => exact absurd rfl (hldF x)
  | ret => obtain ⟨-, rfl⟩ | ⟨-, rfl⟩ := exec_ret_cases h <;> rfl
  | call nnn => obtain ⟨-, rfl⟩ | ⟨-, rfl⟩ := exec_call_cases h <;> rfl
  | ldVxK x => obtain ⟨-, -, rfl⟩ | ⟨-, rfl⟩ := exec_ldVxK_cases h <;> rfl
  | drw x y n => obtain ⟨-, -, rfl⟩ | ⟨-, rfl⟩ := exec_drw_cases h <;> rfl
  | ldB x => exact withDataRange_next (P := fun u => u.i = s.i) h rfl rfl
  | ldMem x => exact withDataRange_next (P := fun u => u.i = s.i) h rfl (State.storeRegs_i _ _ s)
  | ldRegs x => exact withDataRange_next (P := fun u => u.i = s.i) h rfl (State.loadRegs_i _ _ s)
  | _ =>
    -- every other instruction has one outcome, built from updates that leave I alone
    obtain rfl := Host.Outcome.next.inj h
    rfl

end Sys2Proof.Machine

namespace Sys2Proof

open Sys2Proof.Machine

/-- Settles O24: in range the three digits are a block write at I, of which each byte reads back and outside of
which nothing changes; out of range the check answers first. -/
theorem decimalStoreWritesThreeDigits : Obligations.DecimalStoreWritesThreeDigits := by
  unfold Obligations.DecimalStoreWritesThreeDigits
  intro s x
  rw [exec_ldB]
  refine ⟨fun hwf hin => ⟨_, withDataRange_inRange hin, ?_⟩, withDataRange_outOfRange⟩
  have hend : dataAddr s 0 + 3 ≤ 4096 := hin
  have hread (j : Nat) (hj : j < 3) :
      (s.writeBytes (dataAddr s 0) (decimalDigits s.v[x])).readByte (dataAddr s j) = (decimalDigits s.v[x])[j] :=
    State.readByte_writeBytes_inside (decimalDigits s.v[x]) j hj hwf hend
  obtain ⟨hhundreds, htens, hones⟩ := decimalDigits_toNat s.v[x]
  simp only [State.readByte_advance]
  refine ⟨?_, ?_, ?_, fun a h0 h1 h2 => ?_, rfl⟩
  · rw [hread 0 (by decide), hhundreds]
  · rw [hread 1 (by decide), htens]
  · rw [hread 2 (by decide), hones]
  · have houtside : a < dataAddr s 0 ∨ dataAddr s 0 + 3 ≤ a := by
      rw [← dataAddr_zero_add] at h1 h2
      omega
    exact State.readByte_writeBytes_outside (decimalDigits s.v[x]) houtside

/-- Settles O25, from the reads inside and outside the dumped block; the dump writes memory alone. -/
theorem registerDumpWritesTheBlock : Obligations.RegisterDumpWritesTheBlock := by
  unfold Obligations.RegisterDumpWritesTheBlock
  intro s x
  rw [exec_ldMem]
  refine ⟨fun hwf hin => ⟨_, withDataRange_inRange hin, fun k hk => ?_, fun a ha => ?_, ?_⟩,
    withDataRange_outOfRange⟩
  · exact State.storeRegs_inside _ _ s x.isLt hwf hin k (Nat.lt_succ_of_le hk)
  · exact State.storeRegs_outside _ _ s a ha
  · exact congrArg (State.advance · 2) (State.storeRegs_frame _ _ s)

/-- Settles O26, from what the load leaves in each register; it writes registers alone. -/
theorem registerLoadReadsTheBlock : Obligations.RegisterLoadReadsTheBlock := by
  unfold Obligations.RegisterLoadReadsTheBlock
  intro s x
  rw [exec_ldRegs]
  refine ⟨fun hin => ⟨_, withDataRange_inRange hin, fun k => ?_, ?_⟩, withDataRange_outOfRange⟩
  · simp only [State.advance_v, State.loadRegs_reg _ _ s x.isLt, dataAddr_zero_add, Nat.lt_succ_iff,
      Fin.val_fin_le]
  · exact congrArg (State.advance · 2) (State.loadRegs_frame _ _ s)

/-- Settles O43, by the instruction: every other one is built from updates that keep I, or answers a fatal state
or its own, which keep it too. -/
theorem onlyIndexInstructionsWriteI : Obligations.OnlyIndexInstructionsWriteI := by
  unfold Obligations.OnlyIndexInstructionsWriteI
  exact fun i s t => exec_keeps_i

/-- Settles O23: each writes I and PC alone, and the three values of I as numbers are the stated ones. -/
theorem indexRegisterWrites : Obligations.IndexRegisterWrites := by
  unfold Obligations.IndexRegisterWrites
  intro s x nnn
  rw [← zextAddr_eq_ofNat, ← indexSum_eq_ofNat, ← glyphAddr_eq_ofNat]
  exact ⟨rfl, rfl, rfl⟩

end Sys2Proof
end

section
/-! PROOFS of the statements about the display (44_display.md). -/

namespace Sys2Proof.Machine

/-! ## The flag and the registers after a draw (44_display.md R131) -/

theorem flagByte_eq_one (b : Bool) : flagByte b = 1 ↔ b = true := by cases b <;> decide

theorem flagByte_one_or_zero (b : Bool) : flagByte b = 1 ∨ flagByte b = 0 := by cases b <;> decide

/-- A completed draw leaves its collision bit in VF and every other register alone. -/
theorem State.drawn_reg (s : State) (r : Display × Bool) (k : Reg) :
    (s.drawn r).v[k] = if k = 15 then flagByte r.2 else s.v[k] :=
  reg_set s.v vf k (flagByte r.2)

/-! ## The sprite, pixel by pixel (44_display.md R131 to R133, R135) -/

theorem Display.pixel_eq (d : Display) (px : Fin 64) (py : Fin 32) : d.pixel px py = d[px][py] := rfl

/-- The pixels the draw loop's rows cover are those the sprite covers. -/
theorem rowsCover_iff_spriteCovers (s : State) (x y : Reg) (n : Nibble) (px : Fin 64) (py : Fin 32) :
    RowsCover s.readByte (dataAddr s 0) (s.reg x) (s.reg y) n.toNat px py ↔ SpriteCovers s x y n px py := by
  simp only [RowsCover, RowCovers, SpriteCovers, spriteBit, drawColumn, drawLine, Fin.ext_iff, Fin.val_ofNat,
    State.reg_eq, dataAddr_zero_add]
  constructor
  · rintro ⟨r, hr, ⟨c, hc, hbit, hpx⟩, hpy⟩
    exact ⟨r, hr, c, hc, hbit, hpx, hpy⟩
  · rintro ⟨r, hr, c, hc, hbit, hpx, hpy⟩
    exact ⟨r, hr, ⟨c, hc, hbit, hpx⟩, hpy⟩

/-- Drawing a sprite flips exactly the pixels it covers. -/
theorem drawSprite_pixel (s : State) (x y : Reg) (n : Nibble) (px : Fin 64) (py : Fin 32) :
    (drawSprite s x y n).1[px][py] = true ↔ ¬ (s.disp[px][py] = true ↔ SpriteCovers s x y n px py) := by
  have hn : n.toNat ≤ 15 := Nat.le_of_lt_succ n.isLt
  rw [← rowsCover_iff_spriteCovers]
  exact drawRows_pixel s.readByte (dataAddr s 0) (s.reg x) (s.reg y) n.toNat hn (s.disp, false) px py

/-- Drawing a sprite reports a collision exactly when it covers a set pixel. -/
theorem drawSprite_collision (s : State) (x y : Reg) (n : Nibble) :
    (drawSprite s x y n).2 = true ↔ ∃ px py, s.disp[px][py] = true ∧ SpriteCovers s x y n px py := by
  have hn : n.toNat ≤ 15 := Nat.le_of_lt_succ n.isLt
  simp only [drawSprite, drawRows_collision _ _ _ _ _ hn, Bool.false_eq_true, false_or,
    rowsCover_iff_spriteCovers, Display.pixel_eq, and_comm]

/-- A sprite of no rows leaves the display and collides with nothing (44_display.md R134). -/
theorem drawSprite_zero (s : State) (x y : Reg) : drawSprite s x y 0 = (s.disp, false) := rfl

/-! ## What `DRW` answers (44_display.md R131, R134, R136) -/

/-- With no row to draw, or with the last row in range, a draw completes. -/
theorem exec_drw_of_inRange {s : State} (x y : Reg) {n : Nibble}
    (h : n.toNat = 0 ∨ dataAddr s (n.toNat - 1) < 4096) :
    exec (.drw x y n) s = .next (s.drawn (drawSprite s x y n)) := by
  simp only [exec, execDrw]
  split
  · rfl
  · rename_i hn
    exact withDataRange_inRange (h.resolve_left hn)

/-- With a row to draw and the last row out of range, a draw is fatal and nothing else. -/
theorem exec_drw_of_outOfRange {s : State} (x y : Reg) {n : Nibble} (hn : 0 < n.toNat)
    (h : 4096 ≤ s.i.toNat + (n.toNat - 1)) :
    exec (.drw x y n) s = .next (s.raiseFatal .dataAddrOutOfRange) := by
  rw [exec, execDrw, if_neg (Nat.ne_of_gt hn)]
  exact withDataRange_outOfRange h

end Sys2Proof.Machine

namespace Sys2Proof

open Sys2Proof.Machine

/-- Settles O28: in range the draw completes with the sprite's pixels flipped and its collision bit in VF; out of
range the check answers first. -/
theorem drawXorsTheSprite : Obligations.DrawXorsTheSprite := by
  unfold Obligations.DrawXorsTheSprite
  intro s x y n
  refine ⟨fun hin => ⟨_, exec_drw_of_inRange x y hin, ?_⟩, exec_drw_of_outOfRange x y⟩
  have hvf : (s.drawn (drawSprite s x y n)).v[15] = flagByte (drawSprite s x y n).2 :=
    State.drawn_reg s _ 15
  rw [hvf]
  exact ⟨drawSprite_pixel s x y n, flagByte_one_or_zero _,
    (flagByte_eq_one _).trans (drawSprite_collision s x y n),
    fun k hk => (State.drawn_reg s _ k).trans (if_neg hk), rfl⟩

/-- Settles O27: the display becomes the blank one. -/
theorem clearScreenClearsEveryPixel : Obligations.ClearScreenClearsEveryPixel := by
  unfold Obligations.ClearScreenClearsEveryPixel
  exact fun s => ⟨(s.setDisp Display.blank).markRedraw.advance 2, rfl, Display.pixel_blank, rfl⟩

/-- Settles O30: no row is out of range, and a sprite of no rows writes the display back with VF 0. -/
theorem drawOfNoRows : Obligations.DrawOfNoRows := by
  unfold Obligations.DrawOfNoRows
  intro s x y
  rw [exec_drw_of_inRange x y (.inl rfl), drawSprite_zero]
  rfl

end Sys2Proof
end

section
/-! PROOFS of the statements about the keys (45_input.md). -/

namespace Sys2Proof.Machine

/-! ## The key skips (45_input.md R139, R140) -/

/-- The key a register selects is the one its low nibble names. -/
theorem keyIndex_eq_of_val {b : Byte} {k : Reg} (hk : k.val = b.toNat % 16) : keyIndex b = k := by
  rw [keyIndex, ← hk, Fin.ofNat_val_eq_self]

theorem exec_skp_of_val {s : State} {x k : Reg} (hk : k.val = s.v[x].toNat % 16) :
    exec (.skp x) s = .next (s.skipIf s.key[k]) := by
  obtain rfl := keyIndex_eq_of_val hk
  rfl

theorem exec_sknp_of_val {s : State} {x k : Reg} (hk : k.val = s.v[x].toNat % 16) :
    exec (.sknp x) s = .next (s.skipIf !s.key[k]) := by
  obtain rfl := keyIndex_eq_of_val hk
  rfl

/-! ## The key wait (45_input.md R141, R143) -/

theorem exec_ldVxK_of_pressed {s : State} (x : Reg) {k : Reg} (h : s.firstKey = some k) :
    exec (.ldVxK x) s = .next ((s.setReg x (BitVec.ofNat 8 k.val)).advance 2) := by
  simp only [exec, execLdVxK, h]

theorem exec_ldVxK_of_blocked {s : State} (x : Reg) (h : s.firstKey = none) :
    exec (.ldVxK x) s = .next s := by
  simp only [exec, execLdVxK, h]

/-! ## The latch between commands (45_input.md R137) -/

@[simp] theorem State.setKeys_getElem (s : State) (k : BitVec 16) (j : Reg) :
    (s.setKeys k).key[j] = k.getLsbD j.val := by
  rw [State.setKeys_key, Fin.getElem_fin, Vector.getElem_ofFn]

/-- `reset` begins the boot order again, from a state with no key pressed. -/
theorem Session.reset_clears_keys (h : Session) :
    ∃ t, h.reset = .live .fresh t ∧ ∀ j : Reg, t.key[j] = false := by
  cases h with
  | unreset font => exact ⟨State.resetWith font, rfl, State.resetWith_key font⟩
  | live _ s => exact ⟨s.resetFrom, rfl, State.resetWith_key s.font⟩

/-! ## The latch during a step (45_input.md R137) -/

@[simp] theorem State.loadRegs_key (base n : Nat) (s : State) : (State.loadRegs base n s).key = s.key := by
  rw [State.loadRegs_frame]

@[simp] theorem State.storeRegs_key (base n : Nat) (s : State) : (State.storeRegs base n s).key = s.key := by
  rw [State.storeRegs_frame]

@[simp] theorem State.endStep_key (s : State) : s.endStep.key = s.key := by
  rw [State.endStep_eq]
  split
  · rfl
  · exact State.tick_key s

/-- No instruction writes the key latch. -/
theorem exec_keeps_key {i : Instr} {s t : State} (h : exec i s = .next t) : t.key = s.key := by
  cases i with
  | ret => obtain ⟨-, rfl⟩ | ⟨-, rfl⟩ := exec_ret_cases h <;> rfl
  | call nnn => obtain ⟨-, rfl⟩ | ⟨-, rfl⟩ := exec_call_cases h <;> rfl
  | ldVxK x => obtain ⟨-, -, rfl⟩ | ⟨-, rfl⟩ := exec_ldVxK_cases h <;> rfl
  | drw x y n => obtain ⟨-, -, rfl⟩ | ⟨-, rfl⟩ := exec_drw_cases h <;> rfl
  | ldB x => exact withDataRange_next (P := fun u => u.key = s.key) h rfl rfl
  | ldMem x => exact withDataRange_next (P := fun u => u.key = s.key) h rfl (State.storeRegs_key _ _ s)
  | ldRegs x => exact withDataRange_next (P := fun u => u.key = s.key) h rfl (State.loadRegs_key _ _ s)
  | _ =>
    -- every other instruction has one outcome, built from updates that leave the latch alone
    obtain rfl := Host.Outcome.next.inj h
    rfl

/-- No step writes the key latch, whatever its random byte. -/
theorem stepWith_keeps_key {rnd : Byte} {s t : State} (h : stepWith rnd s = .next t) : t.key = s.key := by
  obtain ⟨-, rfl⟩ | ⟨-, -, rfl⟩ | ⟨-, -, u, hexec, rfl⟩ := stepWith_cases h
  · rfl
  · rfl
  · calc
      u.endStep.key = u.key := State.endStep_key u
      _ = (s.beginStep rnd).key := exec_keeps_key hexec
      _ = s.key := State.beginStep_key s rnd

end Sys2Proof.Machine

namespace Sys2Proof

open Sys2Proof.Machine

/-- Settles O32, by what the scan finds: the lowest pressed key, or nothing when none is pressed. -/
theorem keyWaitTakesTheLowestKeyOrBlocks : Obligations.KeyWaitTakesTheLowestKeyOrBlocks := by
  unfold Obligations.KeyWaitTakesTheLowestKeyOrBlocks
  refine fun s x => ⟨fun k hpressed hlowest => ?_, fun hnone => ?_⟩
  · exact exec_ldVxK_of_pressed x ((s.firstKey_some k).mpr ⟨hpressed, hlowest⟩)
  · exact exec_ldVxK_of_blocked x (s.firstKey_none.mpr hnone)

/-- Settles O51: `set_keys` and `reset` write the latch from outside, and a step keeps it in each of its cases. -/
theorem keyLatchIsTheHosts : Obligations.KeyLatchIsTheHosts := by
  unfold Obligations.KeyLatchIsTheHosts
  refine ⟨fun p s k => ?setKeys, fun h => ?reset, fun s t rnd => stepWith_keeps_key⟩
  case setKeys => exact ⟨s.setKeys k, rfl, s.setKeys_getElem k, s.setKeys_frame k⟩
  case reset =>
    obtain ⟨t, hreset, hclear⟩ := h.reset_clears_keys
    exact ⟨t, by rw [issue, hreset], hclear⟩

/-- Settles O31: both skip on the key that the low nibble of V[X] selects, `SKNP` when it is not pressed. -/
theorem keySkips : Obligations.KeySkips := by
  unfold Obligations.KeySkips
  intro s x k hk
  rw [exec_skp_of_val hk, exec_sknp_of_val hk]
  exact ⟨congrArg Host.Outcome.next (s.skipIf_of_iff Iff.rfl),
    congrArg Host.Outcome.next (s.skipIf_of_iff (Iff.of_eq (Bool.not_eq_true' _)))⟩

end Sys2Proof
end

section
/-! PROOFS of the statements about the timers (46_timers.md). -/

namespace Sys2Proof.Machine

/-! ## A step that ends running (40_cycle.md R80, R88) -/

/-- A running step in range whose instruction leaves the machine running is that instruction, then the tick. -/
theorem stepWith_of_exec_running {i : Instr} {s u : State} (rnd : Byte) (hrun : s.status = .run)
    (hpc : s.pc.toNat < 4095) (hdec : decode s.fetchWord = i) (hexec : exec i (s.beginStep rnd) = .next u)
    (hu : u.status = .run) : stepWith rnd s = .next u.tick := by
  subst hdec
  rw [stepWith_inRange hrun hpc hexec, State.endStep_of_running hu]

/-! ## The timer moves (46_timers.md R145, R146, R148) -/

theorem exec_ldVxDt (s : State) (x : Reg) : exec (.ldVxDt x) s = .next ((s.setReg x s.dt).advance 2) := rfl

theorem exec_ldDt (s : State) (x : Reg) : exec (.ldDt x) s = .next ((s.setDt s.v[x]).advance 2) := rfl

theorem exec_ldSt (s : State) (x : Reg) : exec (.ldSt x) s = .next ((s.setSt s.v[x]).advance 2) := rfl

/-! ## The wait, step by step (45_input.md R142, 46_timers.md R149) -/

/-- A running step of a waiting machine is blocked, and still ticks. -/
theorem stepWith_of_waiting {s : State} (rnd : Byte) (h : Waiting s) :
    stepWith rnd s = .next (s.beginStep rnd).tick := by
  obtain ⟨hrun, hrange, ⟨x, hdec⟩, hkeys⟩ := h
  have hpc : s.pc.toNat < 4095 := by
    rw [← Nat.not_le, ← State.fetchOutOfRange_iff, hrange]
    exact Bool.false_ne_true
  have hnone : (s.beginStep rnd).firstKey = none := (State.firstKey_none _).mpr hkeys
  exact stepWith_of_exec_running rnd hrun hpc hdec (exec_ldVxK_of_blocked x hnone) hrun

/-- What makes a machine wait is nothing that the start of a step or its tick writes. -/
theorem waiting_beginStep_tick {s : State} (rnd : Byte) (h : Waiting s) : Waiting (s.beginStep rnd).tick :=
  ⟨h.running, h.inRange, h.atKeyWait, h.noKey⟩

/-- A run whose first step answers a next state goes on from it. -/
theorem run_succ_of_step {s u : State} (n : Nat) (h : step s = .next u) :
    Host.Core.run core (n + 1) s = Host.Core.run core n u := by
  have hcore : core.step s = .next u := h
  simp only [Host.Core.run, hcore]

end Sys2Proof.Machine

namespace Sys2Proof

open Sys2Proof.Machine

/-- Settles O33, by induction on the number of steps: the first is blocked, so it ticks and leaves a waiting
state, from which the others go on. -/
theorem waitingGoesOnWhileTimersDecay : Obligations.WaitingGoesOnWhileTimersDecay := by
  unfold Obligations.WaitingGoesOnWhileTimersDecay
  intro n
  induction n with
  | zero => exact fun s hwait => ⟨s, rfl, hwait, rfl, rfl, rfl, rfl⟩
  | succ n ih =>
    intro s hwait
    have hstep : step s = .next (s.beginStep (Config.rnd s.rndIdx)).tick := stepWith_of_waiting _ hwait
    obtain ⟨t, hrun, hwait', hpc, hdt, hst, hframe⟩ := ih _ (waiting_beginStep_tick _ hwait)
    refine ⟨t, (run_succ_of_step n hstep).trans hrun, hwait', hpc, ?dt, ?st, hframe⟩
    case dt => rw [hdt, State.tick_dt, decTimer_toNat, Nat.sub_sub, Nat.add_comm, State.beginStep_dt]
    case st => rw [hst, State.tick_st, decTimer_toNat, Nat.sub_sub, Nat.add_comm, State.beginStep_st]

/-- Settles O34: each move is one write and the advance of PC, and the tick after it finds the timer it left. -/
theorem timerMoves : Obligations.TimerMoves := by
  unfold Obligations.TimerMoves
  refine fun s x => ⟨exec_ldVxDt s x, exec_ldDt s x, exec_ldSt s x, fun hrun hpc rnd => ⟨?ldVxDt, ?ldDt, ?ldSt⟩⟩
  case ldVxDt =>
    intro hdec
    refine ⟨_, stepWith_of_exec_running rnd hrun hpc hdec (exec_ldVxDt _ x) hrun, ?_, decTimer_toNat s.dt⟩
    simp
  case ldDt =>
    intro hdec
    exact ⟨_, stepWith_of_exec_running rnd hrun hpc hdec (exec_ldDt _ x) hrun, decTimer_toNat s.v[x]⟩
  case ldSt =>
    intro hdec
    exact ⟨_, stepWith_of_exec_running rnd hrun hpc hdec (exec_ldSt _ x) hrun, (State.tick_timers rfl).2⟩

end Sys2Proof
end

section
/-! PROOFS of the statements about the fatal conditions (60_exceptions.md). -/

namespace Sys2Proof.Machine

/-! ## The table of fatal conditions (60_exceptions.md R153) -/

/-- The rows of the table that an instruction can meet with stack pointer `sp` and index register `idx`: the
instruction, its condition and its cause. -/
inductive FatalWith (sp : Fin 17) (idx : Word) : Instr → Cause → Prop
  | ret : sp.val = 0 → FatalWith sp idx .ret .stackUnderflow
  | call (nnn : Addr12) : sp.val = 16 → FatalWith sp idx (.call nnn) .stackOverflow
  | ldB (x : Reg) : 4096 ≤ idx.toNat + 2 → FatalWith sp idx (.ldB x) .dataAddrOutOfRange
  | ldMem (x : Reg) : 4096 ≤ idx.toNat + x.val → FatalWith sp idx (.ldMem x) .dataAddrOutOfRange
  | ldRegs (x : Reg) : 4096 ≤ idx.toNat + x.val → FatalWith sp idx (.ldRegs x) .dataAddrOutOfRange
  | drw (x y : Reg) (n : Nibble) : 0 < n.toNat → 4096 ≤ idx.toNat + (n.toNat - 1) →
      FatalWith sp idx (.drw x y n) .dataAddrOutOfRange

/-- The rows of the table that a running step from `s` can meet: the fetch is checked first, and an instruction
is executed only when it passes. -/
inductive StepFatal (s : State) : Cause → Prop
  | fetch : 4095 ≤ s.pc.toNat → StepFatal s .pcOutOfRange
  | execute {c : Cause} : s.pc.toNat < 4095 → FatalWith s.sp s.i (decode s.fetchWord) c → StepFatal s c

/-- An instruction meets at most one row. -/
theorem FatalWith.unique {sp : Fin 17} {idx : Word} {i : Instr} {c d : Cause} (hc : FatalWith sp idx i c)
    (hd : FatalWith sp idx i d) : c = d := by
  cases hc <;> cases hd <;> rfl

/-- A step meets at most one row: the fetch and the execute phase exclude each other. -/
theorem StepFatal.unique {s : State} {c d : Cause} (hc : StepFatal s c) (hd : StepFatal s d) : c = d := by
  cases hc with
  | fetch hc =>
    cases hd with
    | fetch => rfl
    | execute hd => omega
  | execute hpc hc =>
    cases hd with
    | fetch hd => omega
    | execute _ hd => exact hc.unique hd

/-- No row names NONE. -/
theorem FatalWith.ne_none {sp : Fin 17} {idx : Word} {i : Instr} {c : Cause} (h : FatalWith sp idx i c) :
    c ≠ .none := by
  cases h <;> nofun

/-- No row of an instruction names PC_OUT_OF_RANGE. -/
theorem FatalWith.ne_pcOutOfRange {sp : Fin 17} {idx : Word} {i : Instr} {c : Cause}
    (h : FatalWith sp idx i c) : c ≠ .pcOutOfRange := by
  cases h <;> nofun

theorem StepFatal.ne_none {s : State} {c : Cause} (h : StepFatal s c) : c ≠ .none := by
  cases h with
  | fetch => nofun
  | execute _ h => exact h.ne_none

/-! ## The rows of each cause -/

/-- Only the fetch names PC_OUT_OF_RANGE. -/
theorem stepFatal_pcOutOfRange {s : State} : StepFatal s .pcOutOfRange ↔ 4095 ≤ s.pc.toNat := by
  refine ⟨fun h => ?_, .fetch⟩
  cases h with
  | fetch h => exact h
  | execute _ h => exact absurd rfl h.ne_pcOutOfRange

/-- Every other cause is named by an instruction. -/
theorem stepFatal_iff_fatalWith {s : State} {c : Cause} (hc : c ≠ .pcOutOfRange) :
    StepFatal s c ↔ s.pc.toNat < 4095 ∧ FatalWith s.sp s.i (decode s.fetchWord) c := by
  refine ⟨fun h => ?_, fun ⟨hpc, h⟩ => .execute hpc h⟩
  cases h with
  | fetch => exact absurd rfl hc
  | execute hpc h => exact ⟨hpc, h⟩

section
variable {sp : Fin 17} {idx : Word} {i : Instr}

theorem fatalWith_stackOverflow :
    FatalWith sp idx i .stackOverflow ↔ sp.val = 16 ∧ ∃ nnn, i = .call nnn := by
  constructor
  · intro h
    cases h with
    | call nnn hfull => exact ⟨hfull, nnn, rfl⟩
  · rintro ⟨hfull, nnn, rfl⟩
    exact .call nnn hfull

theorem fatalWith_stackUnderflow :
    FatalWith sp idx i .stackUnderflow ↔ sp.val = 0 ∧ i = .ret := by
  constructor
  · intro h
    cases h with
    | ret hempty => exact ⟨hempty, rfl⟩
  · rintro ⟨hempty, rfl⟩
    exact .ret hempty

theorem fatalWith_dataAddrOutOfRange :
    FatalWith sp idx i .dataAddrOutOfRange ↔
      (∃ x, i = .ldB x ∧ 4096 ≤ idx.toNat + 2) ∨
      (∃ x, i = .ldMem x ∧ 4096 ≤ idx.toNat + x.val) ∨
      (∃ x, i = .ldRegs x ∧ 4096 ≤ idx.toNat + x.val) ∨
      (∃ x y n, i = .drw x y n ∧ 0 < n.toNat ∧ 4096 ≤ idx.toNat + (n.toNat - 1)) := by
  constructor
  · intro h
    cases h with
    | ldB x hout => exact .inl ⟨x, rfl, hout⟩
    | ldMem x hout => exact .inr (.inl ⟨x, rfl, hout⟩)
    | ldRegs x hout => exact .inr (.inr (.inl ⟨x, rfl, hout⟩))
    | drw x y n hn hout => exact .inr (.inr (.inr ⟨x, y, n, rfl, hn, hout⟩))
  · rintro (⟨x, rfl, hout⟩ | ⟨x, rfl, hout⟩ | ⟨x, rfl, hout⟩ | ⟨x, y, n, rfl, hn, hout⟩)
    · exact .ldB x hout
    · exact .ldMem x hout
    · exact .ldRegs x hout
    · exact .drw x y n hn hout

end

/-! ## What an instruction and a step do about them (60_exceptions.md R154, R155) -/

/-- The outcome `t` of instruction `i` in `s` as the table has it: `s` halted with the cause of the row met, or,
with no row met, a state with the STATUS and CAUSE of `s`. -/
def FollowsTable (i : Instr) (s t : State) : Prop :=
  (∃ c, FatalWith s.sp s.i i c ∧ t = s.raiseFatal c) ∨
  ((∀ c, ¬ FatalWith s.sp s.i i c) ∧ t.status = s.status ∧ t.cause = s.cause)

/-- A range-checked instruction follows the table when out of range it meets its row, in range it meets none, and
its body keeps STATUS and CAUSE. -/
theorem withDataRange_followsTable {i : Instr} {s body t : State} {kMax : Nat}
    (h : withDataRange s kMax body = .next t)
    (hout : 4096 ≤ s.i.toNat + kMax → FatalWith s.sp s.i i .dataAddrOutOfRange)
    (hin : s.i.toNat + kMax < 4096 → ∀ c, ¬ FatalWith s.sp s.i i c)
    (hstatus : body.status = s.status) (hcause : body.cause = s.cause) : FollowsTable i s t := by
  obtain ⟨hrange, hw⟩ | ⟨hrange, hw⟩ := withDataRange_cases s body kMax
  · exact .inl ⟨_, hout hrange, Host.Outcome.next.inj (h.symm.trans hw)⟩
  · obtain rfl := Host.Outcome.next.inj (hw.symm.trans h)
    exact .inr ⟨hin hrange, hstatus, hcause⟩

@[simp] theorem State.loadRegs_status (base n : Nat) (s : State) :
    (State.loadRegs base n s).status = s.status := by rw [State.loadRegs_frame]

@[simp] theorem State.loadRegs_cause (base n : Nat) (s : State) :
    (State.loadRegs base n s).cause = s.cause := by rw [State.loadRegs_frame]

@[simp] theorem State.storeRegs_status (base n : Nat) (s : State) :
    (State.storeRegs base n s).status = s.status := by rw [State.storeRegs_frame]

@[simp] theorem State.storeRegs_cause (base n : Nat) (s : State) :
    (State.storeRegs base n s).cause = s.cause := by rw [State.storeRegs_frame]

/-- Every instruction follows the table. -/
theorem exec_followsTable {i : Instr} {s t : State} (h : exec i s = .next t) : FollowsTable i s t := by
  cases i with
  | ret =>
    obtain ⟨hpos, rfl⟩ | ⟨hempty, rfl⟩ := exec_ret_cases h
    · exact .inr ⟨fun c hc => by cases hc; omega, rfl, rfl⟩
    · exact .inl ⟨_, .ret hempty, rfl⟩
  | call nnn =>
    obtain ⟨hroom, rfl⟩ | ⟨hfull, rfl⟩ := exec_call_cases h
    · exact .inr ⟨fun c hc => by cases hc; omega, rfl, rfl⟩
    · exact .inl ⟨_, .call nnn hfull, rfl⟩
  | drw x y n =>
    obtain ⟨hn, hout, rfl⟩ | ⟨hin, rfl⟩ := exec_drw_cases h
    · exact .inl ⟨_, .drw x y n hn hout, rfl⟩
    · exact .inr ⟨fun c hc => by cases hc; omega, rfl, rfl⟩
  | ldB x =>
    exact withDataRange_followsTable h (.ldB x) (fun hin c hc => by cases hc; omega) rfl rfl
  | ldMem x =>
    exact withDataRange_followsTable h (.ldMem x) (fun hin c hc => by cases hc; omega)
      (State.storeRegs_status _ _ s) (State.storeRegs_cause _ _ s)
  | ldRegs x =>
    exact withDataRange_followsTable h (.ldRegs x) (fun hin c hc => by cases hc; omega)
      (State.loadRegs_status _ _ s) (State.loadRegs_cause _ _ s)
  | ldVxK x => obtain ⟨-, -, rfl⟩ | ⟨-, rfl⟩ := exec_ldVxK_cases h <;> exact .inr ⟨nofun, rfl, rfl⟩
  | _ =>
    -- every other instruction has no row, and one outcome built from updates that leave STATUS and CAUSE alone
    obtain rfl := Host.Outcome.next.inj h
    exact .inr ⟨nofun, rfl, rfl⟩

/-- The end of a step never changes CAUSE. -/
@[simp] theorem State.endStep_cause (s : State) : s.endStep.cause = s.cause := by
  rw [State.endStep_eq]
  split <;> rfl

/-- A running step meets a row of the table and is that row's fatal condition and nothing else, or meets none and
ends running with CAUSE kept. -/
theorem stepWith_fatal_cases {rnd : Byte} {s t : State} (hrun : s.status = .run)
    (h : stepWith rnd s = .next t) :
    (∃ c, StepFatal s c ∧ t = (s.beginStep rnd).raiseFatal c) ∨
    ((∀ c, ¬ StepFatal s c) ∧ t.status = .run ∧ t.cause = s.cause) := by
  obtain ⟨hhalted, -⟩ | ⟨-, hpc, rfl⟩ | ⟨-, hpc, u, hexec, rfl⟩ := stepWith_cases h
  · simp [hrun] at hhalted
  · exact .inl ⟨_, .fetch hpc, rfl⟩
  · obtain ⟨c, hc, rfl⟩ | ⟨hnone, hstatus, hcause⟩ := exec_followsTable hexec
    · exact .inl ⟨c, .execute hpc hc, State.endStep_of_halted rfl⟩
    · refine .inr ⟨fun c hc => ?_, ?_, ?_⟩
      · cases hc with
        | fetch hout => omega
        | execute _ hc => exact hnone c hc
      · rw [State.endStep_status, hstatus, State.beginStep_status, hrun]
      · rw [State.endStep_cause, hcause, State.beginStep_cause]

section
variable {rnd : Byte} {s t : State} (hrun : s.status = .run) (hsync : CauseMatchesStatus s)
  (hstep : stepWith rnd s = .next t)
include hrun hsync hstep

/-- After a running step CAUSE is the cause of the row it met. -/
theorem stepWith_cause_iff {c : Cause} (hc : c ≠ .none) : t.cause = c ↔ StepFatal s c := by
  obtain ⟨d, hd, rfl⟩ | ⟨hnone, -, hcause⟩ := stepWith_fatal_cases hrun hstep
  · refine ⟨?_, hd.unique⟩
    rintro rfl
    exact hd
  · rw [hcause, hsync.mpr hrun]
    exact ⟨fun h => absurd h.symm hc, fun h => absurd h (hnone c)⟩

/-- After a running step CAUSE still is NONE exactly while RUN. -/
theorem stepWith_causeMatchesStatus : CauseMatchesStatus t := by
  obtain ⟨d, hd, rfl⟩ | ⟨-, hstatus, hcause⟩ := stepWith_fatal_cases hrun hstep
  · simpa [CauseMatchesStatus] using hd.ne_none
  · simp [CauseMatchesStatus, hstatus, hcause, hsync.mpr hrun]

end

theorem Cause.code_le (c : Cause) : c.code.toNat ≤ 4 := by cases c <;> decide

end Sys2Proof.Machine

namespace Sys2Proof

open Sys2Proof.Machine

/-- Settles O40: a step that ends halted met a row of the table, and what it leaves is the state it began from
with that row's fatal condition raised. -/
theorem fatalStepsArePrecise : Obligations.FatalStepsArePrecise := by
  unfold Obligations.FatalStepsArePrecise
  intro s t rnd hrun hstep hhalted
  obtain ⟨c, hc, rfl⟩ | ⟨-, hrunning, -⟩ := stepWith_fatal_cases hrun hstep
  · exact ⟨hc.ne_none, rfl⟩
  · simp [hhalted] at hrunning

/-- Settles O41: CAUSE of the next state is the cause of the one row the step met, and the rows of each cause are
the stated conditions. -/
theorem fatalExactlyUnderTheNamedConditions : Obligations.FatalExactlyUnderTheNamedConditions := by
  unfold Obligations.FatalExactlyUnderTheNamedConditions
  refine ⟨⟨rfl, rfl, rfl, rfl, rfl, Cause.code_le⟩, fun s t rnd hrun hsync hstep => ?_⟩
  have hcause (c : Cause) (hc : c ≠ .none) : t.cause = c ↔ StepFatal s c :=
    stepWith_cause_iff hrun hsync hstep hc
  have hexecute (c : Cause) (hc : c ≠ .none) (hfetch : c ≠ .pcOutOfRange) :
      t.cause = c ↔ s.pc.toNat < 4095 ∧ FatalWith s.sp s.i (decode s.fetchWord) c :=
    (hcause c hc).trans (stepFatal_iff_fatalWith hfetch)
  refine ⟨?pcOutOfRange, ?stackOverflow, ?stackUnderflow, ?dataAddrOutOfRange, ?none, ?halted⟩
  case pcOutOfRange => exact (hcause .pcOutOfRange nofun).trans stepFatal_pcOutOfRange
  case stackOverflow => rw [hexecute .stackOverflow nofun nofun, fatalWith_stackOverflow]
  case stackUnderflow => rw [hexecute .stackUnderflow nofun nofun, fatalWith_stackUnderflow]
  case dataAddrOutOfRange => rw [hexecute .dataAddrOutOfRange nofun nofun, fatalWith_dataAddrOutOfRange]
  case none => exact stepWith_causeMatchesStatus hrun hsync hstep
  case halted =>
    intro hhalted
    obtain ⟨-, hframe⟩ := fatalStepsArePrecise s t rnd hrun hstep hhalted
    rw [hframe]
    exact ⟨rfl, rfl⟩

end Sys2Proof
end

section
/-! PROOFS of the statements about reset and the host's commands (70_reset_and_hazards.md). -/

namespace Sys2Proof.Machine

/-! ## What a command does to STATUS (60_exceptions.md R156) -/

@[simp] theorem State.load_status (s : State) (bytes : List Byte) : (s.load bytes).1.status = s.status := by
  rw [State.load_frame]

/-- A `step` command that is answered is one step of the machine, which then runs its program. -/
theorem issue_step_next {rnd : Byte} {p : BootPhase} {s : State} {h : Session} {r : Reply}
    (hi : issue (.step rnd) (.live p s) = .next (h, r)) :
    ∃ t, stepWith rnd s = .next t ∧ h = .live .stepping t := by
  have hrun : issueRun rnd s = .next (h, r) := by
    cases p with
    | fresh => cases hi
    | loaded => exact hi
    | loadFailed => cases hi
    | stepping => exact hi
  cases hstep : stepWith rnd s with
  | next t =>
    rw [issueRun_next hstep] at hrun
    cases hrun
    exact ⟨t, rfl, rfl⟩
  | fault f => cases f
  | refused q => simp [issueRun, hstep] at hrun

/-- After a `reset` the machine runs. -/
theorem not_haltedSession_of_reset {p : BootPhase} {s : State} {h : Session} {r : Reply}
    (hi : issue .reset (.live p s) = .next (h, r)) : ¬ HaltedSession h := by
  cases hi
  exact nofun

/-- Every answered command but `reset` leaves a halted machine halted. -/
theorem haltedSession_of_ne_reset {c : Command} {p : BootPhase} {s : State} {h : Session} {r : Reply}
    (hs : s.status = .halted) (hi : issue c (.live p s) = .next (h, r)) (hc : c ≠ .reset) :
    HaltedSession h := by
  by_cases hstep : ∃ rnd, c = .step rnd
  · obtain ⟨rnd, rfl⟩ := hstep
    obtain ⟨t, ht, rfl⟩ := issue_step_next hi
    obtain rfl : s = t := Host.Outcome.next.inj ((stepWith_of_halted rnd hs).symm.trans ht)
    exact hs
  · obtain ⟨hreset, -⟩ | ⟨bytes, -, -, rfl⟩ | ⟨k, -, rfl⟩ := issue_live_cases (not_exists.mp hstep) hi
    · exact absurd hreset hc
    · exact (s.load_status bytes).trans hs
    · exact (s.setKeys_status k).trans hs

end Sys2Proof.Machine

namespace Sys2Proof

open Sys2Proof.Machine

/-- Settles O49: `reset` answers the reset state by definition, and each other command keeps STATUS of a halted
machine: `load` and `set_keys` write another element, and a step of it does nothing. -/
theorem resetIsTotalAndTheOnlyWayOutOfHalted : Obligations.ResetIsTotalAndTheOnlyWayOutOfHalted := by
  unfold Obligations.ResetIsTotalAndTheOnlyWayOutOfHalted
  refine ⟨fun _ _ => rfl, fun _ => rfl, fun c p s h r hs hi => ?onlyReset, fun s bytes k rnd hs => ?core⟩
  case onlyReset =>
    refine ⟨?_, haltedSession_of_ne_reset hs hi⟩
    rintro hhalted rfl
    exact not_haltedSession_of_reset hi hhalted
  case core =>
    exact ⟨(s.load_status bytes).trans hs, (s.setKeys_status k).trans hs, stepWith_of_halted rnd hs⟩

end Sys2Proof
end

section
/-! PROOFS of the statements about the round trip of the decoder and the encoder (30_encoding.md), about what each
instruction leaves unchanged, and about the invariant through every step and every command. -/

namespace Sys2Proof

/-! ## The no-op rows stand apart from the named ones (30_encoding.md R73, R74) -/

/-- The operands of a class-0 no-op are those that name neither `CLS` nor `RET`. -/
theorem sysOperandOk_fieldNNN (d : Class0Dispatch) (w : Word) :
    sysOperandOk d (fieldNNN w) = true ↔ ¬ isCls d w = true ∧ ¬ isRet d w = true := by
  have hkk : (fieldNNN w).setWidth 8 = fieldKK w := by
    apply BitVec.eq_of_toNat_eq
    rw [BitVec.toNat_setWidth, fieldNNN_toNat, fieldKK_toNat]
    omega
  have hn : (fieldNNN w).setWidth 4 = fieldN w := by
    apply BitVec.eq_of_toNat_eq
    rw [BitVec.toNat_setWidth, fieldNNN_toNat, fieldN_toNat]
    omega
  cases d <;> simp [sysOperandOk, isCls, isRet, hkk, hn]

theorem decodeClass0_eq_sys {d : Class0Dispatch} {w : Word} (h : sysOperandOk d (fieldNNN w) = true) :
    decodeClass0 d w = .sys (fieldNNN w) := by
  obtain ⟨hcls, hret⟩ := (sysOperandOk_fieldNNN d w).mp h
  rw [decodeClass0, if_neg hcls, if_neg hret]

/-- The low bytes of class E that name no instruction, as the decoder compares them. -/
theorem not_classECode_iff (kk : Byte) :
    (!classECodes.contains kk) = true ↔ kk.toNat ≠ 0x9E ∧ kk.toNat ≠ 0xA1 := by
  simp [classECodes, ← BitVec.toNat_inj]

/-- The low bytes of class F that name no instruction, as the decoder compares them. -/
theorem not_classFCode_iff (kk : Byte) :
    (!classFCodes.contains kk) = true ↔ kk.toNat ≠ 0x07 ∧ kk.toNat ≠ 0x0A ∧ kk.toNat ≠ 0x15 ∧ kk.toNat ≠ 0x18 ∧
      kk.toNat ≠ 0x1E ∧ kk.toNat ≠ 0x29 ∧ kk.toNat ≠ 0x33 ∧ kk.toNat ≠ 0x55 ∧ kk.toNat ≠ 0x65 := by
  simp [classFCodes, ← BitVec.toNat_inj]

theorem decodeClassE_eq_nopE (x : Reg) {kk : Byte} (h : (!classECodes.contains kk) = true) :
    decodeClassE x kk = .nopE x kk := by
  rw [not_classECode_iff] at h
  unfold decodeClassE
  split
  case h_3 => rfl
  -- in the other branches `kk` is a named low byte
  all_goals simp_all

theorem decodeClassF_eq_nopF (x : Reg) {kk : Byte} (h : (!classFCodes.contains kk) = true) :
    decodeClassF x kk = .nopF x kk := by
  rw [not_classFCode_iff] at h
  unfold decodeClassF
  split
  case h_10 => rfl
  -- in the other branches `kk` is a named low byte
  all_goals simp_all

/-! ## Every word is its instruction's own, but for ignored bits (30_encoding.md section 3) -/

/-- The mask 0xFFF0 clears the low nibble alone. -/
theorem wordXYN_and_highMask (c : Nibble) (x y : Reg) (n : Nibble) :
    wordXYN c x y n &&& 0xFFF0 = wordXYN c x y 0 := by
  apply BitVec.eq_of_getLsbD_eq
  intro k hk
  rw [BitVec.getLsbD_and, wordXYN_bit, wordXYN_bit]
  interval_cases k <;> simp

section
variable {w : Word} {c : Nibble} (h : (fieldClass w).toNat = c.toNat)
include h

theorem wordA_of_fieldClass : wordA c (fieldNNN w) = w := by
  rw [← BitVec.eq_of_toNat_eq h, wordA_fields]

theorem wordXK_of_fieldClass : wordXK c (fieldX w) (fieldKK w) = w := by
  rw [← BitVec.eq_of_toNat_eq h, wordXK_fields]

theorem wordXYN_of_fieldClass : wordXYN c (fieldX w) (fieldY w) (fieldN w) = w := by
  rw [← BitVec.eq_of_toNat_eq h, wordXYN_fields]

/-- In classes 5 and 9 the encoder writes the ignored low nibble as 0. -/
theorem wordXYN_zero_of_fieldClass : wordXYN c (fieldX w) (fieldY w) 0 = w &&& 0xFFF0 := by
  rw [← wordXYN_and_highMask c _ _ (fieldN w), wordXYN_of_fieldClass h]

end

theorem encode_decodeClass0 {d : Class0Dispatch} {w : Word} (hcls : decodeClass0 d w ≠ .cls)
    (hret : decodeClass0 d w ≠ .ret) : encode (decodeClass0 d w) = wordA 0x0 (fieldNNN w) := by
  by_cases hc : isCls d w = true
  · exact absurd (if_pos hc) hcls
  by_cases hr : isRet d w = true
  · exact absurd ((if_neg hc).trans (if_pos hr)) hret
  · rw [decodeClass0, if_neg hc, if_neg hr]
    rfl

theorem encode_decodeClass8 (x y : Reg) (n : Nibble) : encode (decodeClass8 x y n) = wordXYN 0x8 x y n := by
  obtain ⟨⟨k, hk⟩⟩ := n
  interval_cases k <;> rfl

theorem encode_decodeClassE (x : Reg) (kk : Byte) : encode (decodeClassE x kk) = wordXK 0xE x kk := by
  unfold decodeClassE
  split
  case h_3 => rfl
  all_goals
    rename_i hkk
    exact congrArg (wordXK 0xE x) (BitVec.eq_of_toNat_eq hkk.symm)

theorem encode_decodeClassF (x : Reg) (kk : Byte) : encode (decodeClassF x kk) = wordXK 0xF x kk := by
  unfold decodeClassF
  split
  case h_10 => rfl
  all_goals
    rename_i hkk
    exact congrArg (wordXK 0xF x) (BitVec.eq_of_toNat_eq hkk.symm)

theorem decodeClass0_wellFormed (d : Class0Dispatch) (w : Word) : (decodeClass0 d w).wellFormed d = true := by
  unfold decodeClass0
  split
  · rfl
  · split
    · rfl
    · exact (sysOperandOk_fieldNNN d w).mpr ⟨‹_›, ‹_›⟩

theorem decodeClass8_wellFormed (d : Class0Dispatch) (x y : Reg) (n : Nibble) :
    (decodeClass8 x y n).wellFormed d = true := by
  unfold decodeClass8
  split <;> rfl

theorem decodeClassE_wellFormed (d : Class0Dispatch) (x : Reg) (kk : Byte) :
    (decodeClassE x kk).wellFormed d = true := by
  unfold decodeClassE
  split
  case h_3 => exact (not_classECode_iff kk).mpr ⟨‹_›, ‹_›⟩
  all_goals rfl

theorem decodeClassF_wellFormed (d : Class0Dispatch) (x : Reg) (kk : Byte) :
    (decodeClassF x kk).wellFormed d = true := by
  unfold decodeClassF
  split
  case h_10 => exact (not_classFCode_iff kk).mpr (by and_intros <;> assumption)
  all_goals rfl

theorem decodeWith_wellFormed (d : Class0Dispatch) (w : Word) : (decodeWith d w).wellFormed d = true := by
  have hlt : (fieldClass w).toNat < 16 := (fieldClass w).isLt
  unfold decodeWith
  generalize (fieldClass w).toNat = c at hlt ⊢
  match c, hlt with
  | 0x0, _ => exact decodeClass0_wellFormed d w
  | 0x8, _ => exact decodeClass8_wellFormed d _ _ _
  | 0xE, _ => exact decodeClassE_wellFormed d _ _
  | 0xF, _ => exact decodeClassF_wellFormed d _ _
  | 0x1, _ | 0x2, _ | 0x3, _ | 0x4, _ | 0x5, _ | 0x6, _ | 0x7, _ | 0x9, _ | 0xA, _ | 0xB, _ | 0xC, _ | 0xD, _ => rfl
  | _ + 16, hlt => omega  -- no class is above F

/-- In every class but 5 and 9 the word's instruction, unless `CLS` or `RET`, carries every field of the word. -/
theorem encode_decodeWith {d : Class0Dispatch} {w : Word} (h5 : w.toNat / 4096 ≠ 5) (h9 : w.toNat / 4096 ≠ 9)
    (hcls : decodeWith d w ≠ .cls) (hret : decodeWith d w ≠ .ret) : encode (decodeWith d w) = w := by
  have hlt : (fieldClass w).toNat < 16 := (fieldClass w).isLt
  rw [← fieldClass_toNat] at h5 h9
  unfold decodeWith at *
  generalize hc : (fieldClass w).toNat = c at *
  match c, hlt with
  | 0x0, _ => exact (encode_decodeClass0 hcls hret).trans (wordA_of_fieldClass hc)
  | 0x1, _ | 0x2, _ | 0xA, _ | 0xB, _ => exact wordA_of_fieldClass hc
  | 0x3, _ | 0x4, _ | 0x6, _ | 0x7, _ | 0xC, _ => exact wordXK_of_fieldClass hc
  | 0x5, _ => exact absurd rfl h5
  | 0x8, _ => exact (encode_decodeClass8 _ _ _).trans (wordXYN_of_fieldClass hc)
  | 0x9, _ => exact absurd rfl h9
  | 0xD, _ => exact wordXYN_of_fieldClass hc
  | 0xE, _ => exact (encode_decodeClassE _ _).trans (wordXK_of_fieldClass hc)
  | 0xF, _ => exact (encode_decodeClassF _ _).trans (wordXK_of_fieldClass hc)
  | _ + 16, hlt => omega  -- no class is above F

/-- In classes 5 and 9 it carries every field but the low nibble. -/
theorem encode_decodeWith_of_ignoredNibble (d : Class0Dispatch) {w : Word}
    (h : w.toNat / 4096 = 5 ∨ w.toNat / 4096 = 9) : encode (decodeWith d w) = w &&& 0xFFF0 := by
  rw [← fieldClass_toNat] at h
  unfold decodeWith
  obtain hc | hc := h <;> rw [hc] <;> exact wordXYN_zero_of_fieldClass hc

/-! ## A word from its two bytes as numbers (20_memory.md R49) -/

theorem wordOfBytes_ofNat (w : Word) :
    wordOfBytes (BitVec.ofNat 8 (w.toNat / 256)) (BitVec.ofNat 8 (w.toNat % 256)) = w := by
  apply BitVec.eq_of_toNat_eq
  have hlt : w.toNat < 65536 := w.isLt
  rw [wordOfBytes, append_toNat, BitVec.toNat_ofNat, BitVec.toNat_ofNat]
  omega

end Sys2Proof

namespace Sys2Proof.Machine

/-! ## Every instruction and every step answers (40_cycle.md R92) -/

theorem withDataRange_total (s body : State) (kMax : Nat) : ∃ t, withDataRange s kMax body = .next t := by
  obtain ⟨-, hw⟩ | ⟨-, hw⟩ := withDataRange_cases s body kMax <;> exact ⟨_, hw⟩

/-- Every instruction answers a next state. -/
theorem exec_total (i : Instr) (s : State) : ∃ t, exec i s = .next t := by
  cases i with
  | ret =>
    by_cases hpos : 0 < s.sp.val
    · exact ⟨_, exec_ret_of_pos hpos⟩
    · exact ⟨_, exec_ret_of_empty (Nat.eq_zero_of_not_pos hpos)⟩
  | call nnn =>
    by_cases hroom : s.sp.val < 16
    · exact ⟨_, exec_call_of_room nnn hroom⟩
    · exact ⟨_, exec_call_of_full nnn (by omega)⟩
  | ldVxK x =>
    cases hkey : s.firstKey with
    | some k => exact ⟨_, exec_ldVxK_of_pressed x hkey⟩
    | none => exact ⟨_, exec_ldVxK_of_blocked x hkey⟩
  | drw x y n =>
    by_cases hin : n.toNat = 0 ∨ dataAddr s (n.toNat - 1) < 4096
    · exact ⟨_, exec_drw_of_inRange x y hin⟩
    · obtain ⟨hn, hout⟩ := not_or.mp hin
      exact ⟨_, exec_drw_of_outOfRange x y (Nat.pos_of_ne_zero hn) (Nat.not_lt.mp hout)⟩
  | ldB | ldMem | ldRegs => exact withDataRange_total _ _ _
  | _ => exact ⟨_, rfl⟩

/-- Every step answers a next state. -/
theorem stepWith_total (rnd : Byte) (s : State) : ∃ t, stepWith rnd s = .next t := by
  cases hs : s.status with
  | halted => exact ⟨s, stepWith_of_halted rnd hs⟩
  | run =>
    by_cases hpc : s.pc.toNat < 4095
    · obtain ⟨u, hexec⟩ := exec_total (decode s.fetchWord) (s.beginStep rnd)
      exact ⟨_, stepWith_inRange hs hpc hexec⟩
    · exact ⟨_, stepWith_outOfRange rnd hs (Nat.not_lt.mp hpc)⟩

/-- A running step in range executes the word it fetches (40_cycle.md R83, R85). -/
theorem stepWith_eq_executeTick (rnd : Byte) {s : State} (hs : s.status = .run) (hpc : s.pc.toNat < 4095) :
    stepWith rnd s = executeTick (decode s.fetchWord) (s.beginStep rnd) := by
  obtain ⟨u, hexec⟩ := exec_total (decode s.fetchWord) (s.beginStep rnd)
  rw [stepWith_inRange hs hpc hexec, executeTick, hexec]

/-! ## A stored word (20_memory.md section 6) -/

/-- The two bytes stored at PC are read back as the fetched word: the second store leaves the first alone. -/
theorem State.fetchWord_writeByte_writeByte {s : State} (hi lo : Byte) (hwf : s.memWf = true)
    (hpc : s.pc.toNat < 4095) :
    ((s.writeByte s.pc.toNat hi).writeByte (s.pc.toNat + 1) lo).fetchWord = wordOfBytes hi lo := by
  rw [State.fetchWord, State.writeByte_pc, State.writeByte_pc,
    State.readByte_writeByte_ne lo (by omega), State.readByte_writeByte_self hi hwf (by omega),
    State.readByte_writeByte_self lo (State.memWf_writeByte _ _ hwf) (by omega)]

/-! ## What each instruction leaves unchanged (10_state.md, 20_memory.md R51) -/

/-- What instruction `i` leaves of the display, memory and the call stack of `s` in `t`: each is written by its
own few instructions, and the table FONT by none. -/
structure KeepsUnwritten (i : Instr) (s t : State) : Prop where
  font : t.font = s.font
  disp : i ≠ .cls → (∀ x y n, i ≠ .drw x y n) → t.disp = s.disp
  mem : (∀ x, i ≠ .ldB x) → (∀ x, i ≠ .ldMem x) → t.mem = s.mem
  stack : (∀ nnn, i ≠ .call nnn) → t.stack = s.stack
  sp : (∀ nnn, i ≠ .call nnn) → i ≠ .ret → t.sp = s.sp

/-- A state that differs from `s` in none of them keeps whatever `i` leaves unchanged. -/
theorem KeepsUnwritten.of_eq {i : Instr} {s t : State} (hfont : t.font = s.font) (hdisp : t.disp = s.disp)
    (hmem : t.mem = s.mem) (hstack : t.stack = s.stack) (hsp : t.sp = s.sp) : KeepsUnwritten i s t :=
  ⟨hfont, fun _ _ => hdisp, fun _ _ => hmem, fun _ => hstack, fun _ _ => hsp⟩

theorem KeepsUnwritten.raiseFatal (i : Instr) (s : State) (c : Cause) : KeepsUnwritten i s (s.raiseFatal c) :=
  .of_eq rfl rfl rfl rfl rfl

theorem exec_keepsUnwritten {i : Instr} {s t : State} (h : exec i s = .next t) : KeepsUnwritten i s t := by
  cases i with
  | cls =>
    obtain rfl := exec_cls_next h
    exact ⟨rfl, fun hi => absurd rfl hi, fun _ _ => rfl, fun _ => rfl, fun _ _ => rfl⟩
  | drw x y n =>
    obtain ⟨-, -, rfl⟩ | ⟨-, rfl⟩ := exec_drw_cases h
    · exact .raiseFatal _ s _
    · exact ⟨rfl, fun _ hi => absurd rfl (hi x y n), fun _ _ => rfl, fun _ => rfl, fun _ _ => rfl⟩
  | ret =>
    obtain ⟨hpos, rfl⟩ | ⟨-, rfl⟩ := exec_ret_cases h
    · exact ⟨rfl, fun _ _ => rfl, fun _ _ => rfl, fun _ => rfl, fun _ hi => absurd rfl hi⟩
    · exact .raiseFatal _ s _
  | call nnn =>
    obtain ⟨hroom, rfl⟩ | ⟨-, rfl⟩ := exec_call_cases h
    · exact ⟨rfl, fun _ _ => rfl, fun _ _ => rfl, fun hi => absurd rfl (hi nnn), fun hi => absurd rfl (hi nnn)⟩
    · exact .raiseFatal _ s _
  | ldB x =>
    refine withDataRange_next h (.raiseFatal _ s _) ?_
    exact ⟨rfl, fun _ _ => rfl, fun hi => absurd rfl (hi x), fun _ => rfl, fun _ _ => rfl⟩
  | ldMem x =>
    refine withDataRange_next h (.raiseFatal _ s _) ?_
    rw [State.storeRegs_frame]
    exact ⟨rfl, fun _ _ => rfl, fun _ hi => absurd rfl (hi x), fun _ => rfl, fun _ _ => rfl⟩
  | ldRegs x =>
    refine withDataRange_next h (.raiseFatal _ s _) ?_
    rw [State.loadRegs_frame]
    exact .of_eq rfl rfl rfl rfl rfl
  | ldVxK x => obtain ⟨-, -, rfl⟩ | ⟨-, rfl⟩ := exec_ldVxK_cases h <;> exact .of_eq rfl rfl rfl rfl rfl
  | _ =>
    -- every other instruction has one outcome, built from updates of registers, I, PC and timers
    obtain rfl := Host.Outcome.next.inj h
    exact .of_eq rfl rfl rfl rfl rfl

/-- A register that an instruction may not write keeps its value. -/
theorem exec_keeps_reg {i : Instr} {s t : State} {k : Reg} (h : exec i s = .next t) (hk : ¬ i.mayWrite k) :
    t.v[k] = s.v[k] := by
  cases i with
  | ldByte x | addByte x | ldReg x | or x | and x | xor x | rnd x | ldVxDt x =>
    obtain rfl := Host.Outcome.next.inj h
    exact (reg_set s.v x k _).trans (if_neg hk)
  | addReg x | sub x | shr x | subn x | shl x =>
    obtain rfl := Host.Outcome.next.inj h
    obtain ⟨hkx, hkf⟩ := not_or.mp hk
    exact (reg_set_flag s.v x k _ _).trans ((if_neg hkf).trans (if_neg hkx))
  | ldVxK x =>
    obtain ⟨key, -, rfl⟩ | ⟨-, rfl⟩ := exec_ldVxK_cases h
    · exact (reg_set s.v x k _).trans (if_neg hk)
    · rfl
  | drw x y n =>
    obtain ⟨-, -, rfl⟩ | ⟨-, rfl⟩ := exec_drw_cases h
    · rfl
    · exact (State.drawn_reg s _ k).trans (if_neg hk)
  | ldRegs x =>
    refine withDataRange_next (P := fun u => u.v[k] = s.v[k]) h rfl ?_
    exact (State.loadRegs_reg _ _ s x.isLt k).trans (if_neg fun hlt => hk (Nat.le_of_lt_succ hlt))
  | ldMem x =>
    refine withDataRange_next (P := fun u => u.v[k] = s.v[k]) h rfl ?_
    rw [State.storeRegs_frame]
    rfl
  | ldB x => exact withDataRange_next (P := fun u => u.v[k] = s.v[k]) h rfl rfl
  | ret => obtain ⟨-, rfl⟩ | ⟨-, rfl⟩ := exec_ret_cases h <;> rfl
  | call nnn => obtain ⟨-, rfl⟩ | ⟨-, rfl⟩ := exec_call_cases h <;> rfl
  | _ =>
    -- every other instruction has one outcome, built from updates that leave the registers alone
    obtain rfl := Host.Outcome.next.inj h
    rfl

/-! ## The sprite after a draw (44_display.md section 3) -/

theorem Display.ext_pixel {d e : Display}
    (h : ∀ (px : Fin 64) (py : Fin 32), d[px][py] = true ↔ e[px][py] = true) : d = e :=
  Vector.ext fun x hx => Vector.ext fun y hy => Bool.eq_iff_iff.mpr (h ⟨x, hx⟩ ⟨y, hy⟩)

/-- A draw writes VF and no memory, so at coordinates in other registers its sprite covers the same pixels. -/
theorem spriteCovers_drawn {s : State} {x y : Reg} (hx : x ≠ 15) (hy : y ≠ 15) (r : Display × Bool) (n : Nibble)
    (px : Fin 64) (py : Fin 32) : SpriteCovers (s.drawn r) x y n px py ↔ SpriteCovers s x y n px py := by
  simp only [SpriteCovers, State.drawn_reg, if_neg hx, if_neg hy]
  rfl

/-! ## The invariant through an instruction (10_state.md section 4) -/

/-- The range-checked stores keep the canonical form of memory, and no other instruction writes memory. -/
theorem exec_memWf {i : Instr} {s t : State} (h : exec i s = .next t) (hs : s.memWf = true) : t.memWf = true := by
  by_cases hldB : ∃ x, i = .ldB x
  · obtain ⟨x, rfl⟩ := hldB
    exact withDataRange_next (P := fun u => u.memWf = true) h hs
      (State.memWf_writeBytes (dataAddr s 0) (decimalDigits s.v[x]) hs)
  by_cases hldMem : ∃ x, i = .ldMem x
  · obtain ⟨x, rfl⟩ := hldMem
    exact withDataRange_next (P := fun u => u.memWf = true) h hs (State.storeRegs_wf _ _ s hs)
  · obtain ⟨hfont, -, hmem, -, -⟩ := exec_keepsUnwritten h
    rw [State.memWf_congr (hmem (not_exists.mp hldB) (not_exists.mp hldMem)) hfont, hs]

/-- The bound on the stack speaks of the live entries alone. -/
theorem stackBounded_congr {s t : State} (hs : StackBounded s) (hsp : t.sp = s.sp) (hstack : t.stack = s.stack) :
    StackBounded t := by
  intro k hk
  rw [hstack]
  exact hs k (hsp ▸ hk)

/-- A push of an address that could be fetched from keeps every live entry bounded. -/
theorem stackBounded_pushPc {s : State} (hs : StackBounded s) (hpc : s.pc.toNat < 4095) (hroom : s.sp.val < 16) :
    StackBounded (s.pushPc hroom) := by
  intro k hk
  have hk : k.val < s.sp.val + 1 := hk
  simp only [State.pushPc_stack, Fin.getElem_fin, Vector.getElem_set]
  split
  · omega
  · exact hs k (by omega)

/-- A pop leaves the live entries below the top one. -/
theorem stackBounded_popPc {s : State} (hs : StackBounded s) (hpos : 0 < s.sp.val) : StackBounded (s.popPc hpos) :=
  fun k hk => hs k (Nat.lt_of_lt_of_le hk (Nat.sub_le _ _))

/-- An instruction fetched in range keeps every live return address bounded: `CALL` pushes its own address, and
no other instruction adds an entry. -/
theorem exec_stackBounded {i : Instr} {s t : State} (hpc : s.pc.toNat < 4095) (hs : StackBounded s)
    (h : exec i s = .next t) : StackBounded t := by
  by_cases hcall : ∃ nnn, i = .call nnn
  · obtain ⟨nnn, rfl⟩ := hcall
    obtain ⟨hroom, rfl⟩ | ⟨-, rfl⟩ := exec_call_cases h
    · exact stackBounded_pushPc hs hpc hroom
    · exact hs
  by_cases hret : i = .ret
  · subst hret
    obtain ⟨hpos, rfl⟩ | ⟨-, rfl⟩ := exec_ret_cases h
    · exact stackBounded_popPc hs hpos
    · exact hs
  · have hkept := exec_keepsUnwritten h
    rw [not_exists] at hcall
    exact stackBounded_congr hs (hkept.sp hcall hret) (hkept.stack hcall)

/-- From an address that could be fetched from, an advance of at most 4 stays far below 0x10FE. -/
theorem advance_bounded {pc k : Word} (hpc : pc.toNat < 4095) (hk : k.toNat ≤ 4) : (pc + k).toNat ≤ 0x10FE := by
  rw [BitVec.toNat_add]
  omega

theorem pcBounded_skipIf {s : State} (c : Bool) (hpc : s.pc.toNat < 4095) : PcBounded (s.skipIf c) :=
  advance_bounded hpc (by cases c <;> decide)

theorem zextAddr_bounded (nnn : Addr12) : (zextAddr nnn).toNat ≤ 0x10FE := by
  rw [zextAddr_toNat]
  omega

theorem indexedTarget_bounded (s : State) (nnn : Addr12) : (indexedTarget s nnn).toNat ≤ 0x10FE := by
  rw [indexedTarget_toNat]
  omega

/-- A pop takes PC past the `CALL` whose address it finds on top of the stack. -/
theorem pcBounded_popPc {s : State} (hs : StackBounded s) (hpos : 0 < s.sp.val) : PcBounded (s.popPc hpos) := by
  have hlive : s.sp.val - 1 < s.sp.val := by omega
  have htop : s.stack[s.sp.val - 1].toNat ≤ 4094 := hs ⟨s.sp.val - 1, by omega⟩ hlive
  exact advance_bounded (Nat.lt_succ_of_le htop) (by decide)

/-- An instruction fetched in range keeps PC bounded: it stays, advances, jumps to a 12-bit target that V0 may be
added to, or returns behind a bounded address. -/
theorem exec_pcBounded {i : Instr} {s t : State} (hpc : s.pc.toNat < 4095) (hs : StackBounded s)
    (h : exec i s = .next t) : PcBounded t := by
  have hstay : PcBounded s := Nat.le_trans (Nat.le_of_lt hpc) (by decide)
  have hnext : (s.pc + 2).toNat ≤ 0x10FE := advance_bounded hpc (by decide)
  cases i with
  | jp nnn =>
    obtain rfl := Host.Outcome.next.inj h
    exact zextAddr_bounded nnn
  | jpV0 nnn =>
    obtain rfl := Host.Outcome.next.inj h
    exact indexedTarget_bounded s nnn
  | call nnn =>
    obtain ⟨-, rfl⟩ | ⟨-, rfl⟩ := exec_call_cases h
    · exact zextAddr_bounded nnn
    · exact hstay
  | ret =>
    obtain ⟨hpos, rfl⟩ | ⟨-, rfl⟩ := exec_ret_cases h
    · exact pcBounded_popPc hs hpos
    · exact hstay
  | seByte | sneByte | seReg | sneReg | skp | sknp =>
    obtain rfl := Host.Outcome.next.inj h
    exact pcBounded_skipIf _ hpc
  | ldVxK x =>
    obtain ⟨-, -, rfl⟩ | ⟨-, rfl⟩ := exec_ldVxK_cases h
    · exact hnext
    · exact hstay
  | drw x y n =>
    obtain ⟨-, -, rfl⟩ | ⟨-, rfl⟩ := exec_drw_cases h
    · exact hstay
    · exact hnext
  | ldB x => exact withDataRange_next h hstay hnext
  | ldMem x =>
    refine withDataRange_next h hstay ?_
    rw [State.storeRegs_frame]
    exact hnext
  | ldRegs x =>
    refine withDataRange_next h hstay ?_
    rw [State.loadRegs_frame]
    exact hnext
  | _ =>
    -- every other instruction has one outcome, in which PC is advanced by 2
    obtain rfl := Host.Outcome.next.inj h
    exact hnext

/-! ## The invariant through a step -/

@[simp] theorem State.endStep_pc (s : State) : s.endStep.pc = s.pc := by
  rw [State.endStep_eq]
  split <;> rfl

/-- A fatal condition raised at the start of a step leaves a sound state sound: its outputs are already clear. -/
theorem inv_beginStep_raiseFatal {s : State} (rnd : Byte) {c : Cause} (hc : c ≠ .none) (hs : Inv s) :
    Inv ((s.beginStep rnd).raiseFatal c) where
  memory := hs.memory
  cause := by simpa [CauseMatchesStatus] using hc
  pc := hs.pc
  stack := hs.stack
  outputs := fun _ => ⟨rfl, rfl⟩

/-- The tick of a running machine writes nothing that the invariant speaks of. -/
theorem inv_tick {u : State} (hrun : u.status = .run) (hmem : u.memWf = true) (hcause : u.cause = .none)
    (hpc : PcBounded u) (hstack : StackBounded u) : Inv u.tick where
  memory := hmem
  cause := by simp [CauseMatchesStatus, hrun, hcause]
  pc := hpc
  stack := hstack
  outputs := by simp [HaltedOutputs, hrun]

/-- A step of a sound state ends in a sound state, whatever its random byte. -/
theorem inv_stepWith {rnd : Byte} {s t : State} (hs : Inv s) (h : stepWith rnd s = .next t) : Inv t := by
  obtain ⟨-, rfl⟩ | ⟨-, -, rfl⟩ | ⟨hrun, hpc, u, hexec, rfl⟩ := stepWith_cases h
  · exact hs
  · exact inv_beginStep_raiseFatal rnd nofun hs
  · obtain ⟨c, hc, rfl⟩ | ⟨-, hstatus, hcause⟩ := exec_followsTable hexec
    · rw [State.endStep_of_halted rfl]
      exact inv_beginStep_raiseFatal rnd hc.ne_none hs
    · have hu : u.status = .run := hstatus.trans hrun
      rw [State.endStep_of_running hu]
      exact inv_tick hu (exec_memWf hexec hs.memory) (hcause.trans (hs.cause.mpr hrun))
        (exec_pcBounded (s := s.beginStep rnd) hpc hs.stack hexec)
        (exec_stackBounded (s := s.beginStep rnd) hpc hs.stack hexec)

/-! ## The invariant through a command (70_reset_and_hazards.md section 3) -/

theorem inv_resetWith (f : Font) : Inv (State.resetWith f) where
  memory := rfl
  cause := ⟨fun _ => rfl, fun _ => rfl⟩
  pc := by simp [PcBounded, State.resetWith]
  stack := nofun
  outputs := nofun

/-- `reset` ends in a sound state, whatever the machine did before. -/
theorem inv_resetFrom (s : State) : Inv s.resetFrom := by
  obtain ⟨hmem, hcause, hpc, hstack, houtputs⟩ := inv_resetWith s.font
  exact ⟨hmem, hcause, hpc, hstack, houtputs⟩

theorem inv_load {s : State} (bytes : List Byte) (hs : Inv s) : Inv (s.load bytes).1 := by
  obtain ⟨hmem, hcause, hpc, hstack, houtputs⟩ := hs
  have hwf := State.load_memWf bytes hmem
  rw [State.load_frame] at hwf ⊢
  exact ⟨hwf, hcause, hpc, hstack, houtputs⟩

theorem inv_setKeys {s : State} (k : BitVec 16) (hs : Inv s) : Inv (s.setKeys k) := by
  obtain ⟨hmem, hcause, hpc, hstack, houtputs⟩ := hs
  rw [State.setKeys_frame]
  exact ⟨hmem, hcause, hpc, hstack, houtputs⟩

/-- The session after `reset` is sound, whatever came before. -/
theorem sound_reset (h : Session) : Sound h.reset := by
  cases h with
  | unreset font => exact inv_resetWith font
  | live _ s => exact inv_resetFrom s

/-- A step of a loaded program answers a session with its next state, and that is sound if the machine was. -/
theorem issueRun_inv (rnd : Byte) {s : State} (hs : Inv s) :
    ∃ t, issueRun rnd s = .next (.live .stepping t, .nothing) ∧ Inv t := by
  obtain ⟨t, hstep⟩ := stepWith_total rnd s
  exact ⟨t, issueRun_next hstep, inv_stepWith hs hstep⟩

/-- The session `o` answers is sound, or it is a refusal for the boot order. -/
def SoundOrOutOfOrder (o : Host.Outcome (Session × Reply) Fault Refusal) : Prop :=
  (∃ h r, o = .next (h, r) ∧ Sound h) ∨ ∃ b, o = .refused (.hostOutOfOrder b)

theorem issueRun_sound (rnd : Byte) {s : State} (hs : Inv s) : SoundOrOutOfOrder (issueRun rnd s) := by
  obtain ⟨t, ht, hinv⟩ := issueRun_inv rnd hs
  exact .inl ⟨_, _, ht, hinv⟩

/-- Any command to a sound session is answered with a sound one, or refused for the boot order. -/
theorem issue_sound (c : Command) {h : Session} (hs : Sound h) : SoundOrOutOfOrder (issue c h) := by
  cases c with
  | reset => exact .inl ⟨_, _, rfl, sound_reset h⟩
  | load bytes =>
    match h with
    | .live .fresh s => exact .inl ⟨_, _, rfl, inv_load bytes hs⟩
    | .unreset _ | .live .loaded _ | .live .loadFailed _ | .live .stepping _ => exact .inr ⟨_, rfl⟩
  | setKeys k =>
    match h with
    | .unreset _ => exact .inr ⟨_, rfl⟩
    | .live p s => exact .inl ⟨_, _, rfl, inv_setKeys k hs⟩
  | step rnd =>
    match h with
    | .live .loaded s | .live .stepping s => exact issueRun_sound rnd hs
    | .unreset _ | .live .fresh _ | .live .loadFailed _ => exact .inr ⟨_, rfl⟩

theorem issue_load_of_fits (s : State) {bytes : List Byte} (h : bytes.length ≤ 3584) :
    issue (.load bytes) (.live .fresh s) = .next (.live .loaded (s.load bytes).1, .loaded .ok) := by
  simp only [issue, issueLoad, s.load_fits h, LoadResult.phase]

theorem issue_load_of_tooLarge (s : State) {bytes : List Byte} (h : 3584 < bytes.length) :
    issue (.load bytes) (.live .fresh s) = .next (.live .loadFailed s, .loaded .tooLarge) := by
  simp only [issue, issueLoad, s.load_tooLarge h, LoadResult.phase]

/-- A list whose first command is answered goes on from the session it answers. -/
theorem issueAll_cons_of_next {c : Command} {cs : List Command} {h h' : Session} {r : Reply}
    (hc : issue c h = .next (h', r)) : issueAll (c :: cs) h = issueAll cs h' := by
  simp only [issueAll, hc]

/-- A list whose first command is refused is refused. -/
theorem issueAll_cons_of_refused {c : Command} {cs : List Command} {h : Session} {r : Refusal}
    (hc : issue c h = .refused r) : issueAll (c :: cs) h = .refused r := by
  simp only [issueAll, hc]

/-- Any settings of the keys are taken in every phase. -/
theorem issueAll_setKeys (p : BootPhase) (keys : List (BitVec 16)) (cs : List Command) {s : State} (hs : Inv s) :
    ∃ s', Inv s' ∧ issueAll (keys.map .setKeys ++ cs) (.live p s) = issueAll cs (.live p s') := by
  induction keys generalizing s with
  | nil => exact ⟨s, hs, rfl⟩
  | cons k keys ih => exact ih (inv_setKeys k hs)

/-- Once a program is loaded, steps and key settings in any order are taken. -/
theorem issueAll_running {p : BootPhase} (hp : p = .loaded ∨ p = .stepping) {cs : List Command}
    (hcs : ∀ c ∈ cs, (∃ rnd, c = .step rnd) ∨ ∃ k, c = .setKeys k) {s : State} (hs : Inv s) :
    ∃ p' s', issueAll cs (.live p s) = .next (.live p' s') ∧ Inv s' := by
  induction cs generalizing p s with
  | nil => exact ⟨p, s, rfl, hs⟩
  | cons c cs ih =>
    obtain ⟨hc, hrest⟩ := List.forall_mem_cons.mp hcs
    obtain ⟨rnd, rfl⟩ | ⟨k, rfl⟩ := hc
    · obtain ⟨t, ht, hinv⟩ := issueRun_inv rnd hs
      have hstep : issue (.step rnd) (.live p s) = .next (.live .stepping t, .nothing) := by
        obtain rfl | rfl := hp <;> exact ht
      rw [issueAll_cons_of_next hstep]
      exact ih (.inr rfl) hrest hinv
    · exact ih hp hrest (inv_setKeys k hs)

end Sys2Proof.Machine

namespace Sys2Proof

open Sys2Proof.Machine

/-- Settles O2, by the instruction: its word's fields are those the encoder put in, and a no-op that is well-formed
has a code that selects no other row. -/
theorem encodedInstructionsDecodeBack : Obligations.EncodedInstructionsDecodeBack := by
  unfold Obligations.EncodedInstructionsDecodeBack
  intro d i hwf
  obtain ⟨-, hspec, -⟩ := classZeroDispatch
  obtain ⟨hcls, hret⟩ := hspec d
  cases i with
  | cls => exact hcls
  | ret => exact hret
  | sys nnn =>
    rw [← fieldNNN_wordA 0x0 nnn] at hwf
    simp only [encode, decodeWith, fieldClass_wordA]
    exact (decodeClass0_eq_sys hwf).trans (congrArg Instr.sys (fieldNNN_wordA 0x0 nnn))
  | nopE x kk =>
    simp only [encode, decodeWith, fieldClass_wordXK, fieldX_wordXK, fieldKK_wordXK]
    exact decodeClassE_eq_nopE x hwf
  | nopF x kk =>
    simp only [encode, decodeWith, fieldClass_wordXK, fieldX_wordXK, fieldKK_wordXK]
    exact decodeClassF_eq_nopF x hwf
  | _ =>
    simp only [encode, decodeWith, fieldClass_wordA, fieldNNN_wordA, fieldClass_wordXK, fieldX_wordXK,
      fieldKK_wordXK, fieldClass_wordXYN, fieldX_wordXYN, fieldY_wordXYN, fieldN_wordXYN]
    rfl

/-- Settles O52, by the cases of a step. -/
theorem invariantKeptByStep : Obligations.InvariantKeptByStep := by
  unfold Obligations.InvariantKeptByStep
  exact fun s t => inv_stepWith

/-- Settles O54, by induction on the commands: the first is answered with a sound session, from which the others
go on, or it is refused and ends the run. -/
theorem invariantKeptByCommands : Obligations.InvariantKeptByCommands := by
  unfold Obligations.InvariantKeptByCommands
  intro cs
  induction cs with
  | nil => exact fun h hs => .inl ⟨h, rfl, hs⟩
  | cons c cs ih =>
    intro h hs
    obtain ⟨h', r, hc, hs'⟩ | ⟨b, hc⟩ := issue_sound c hs
    · rw [issueAll_cons_of_next hc]
      exact ih h' hs'
    · exact .inr ⟨b, issueAll_cons_of_refused hc⟩

/-- Settles O3, by the class of the word: what the class's decoder answers is well-formed, and its word is built
from the fields it was given. -/
theorem everyWordDecodesAndEncodesBack : Obligations.EveryWordDecodesAndEncodesBack := by
  unfold Obligations.EveryWordDecodesAndEncodesBack
  exact fun d w => ⟨decodeWith_wellFormed d w, encode_decodeWith_of_ignoredNibble d, encode_decodeWith⟩

/-- Settles O13, with the entry the call pushed on top of the stack, where the return finds it. -/
theorem callThenReturnResumes : Obligations.CallThenReturnResumes := by
  unfold Obligations.CallThenReturnResumes
  intro s nnn hroom
  obtain ⟨k, hk⟩ : ∃ k : Fin 16, s.sp = k.castSucc := ⟨⟨s.sp.val, hroom⟩, rfl⟩
  obtain ⟨hcall, -⟩ := callPushesOrOverflows s nnn
  obtain ⟨hret, -⟩ := returnPopsOrUnderflows
    { s with stack := s.stack.set k s.pc, sp := k.succ, pc := BitVec.ofNat 16 nnn.toNat }
  have htop : (s.stack.set k s.pc)[k] = s.pc := Vector.getElem_set_self k.isLt
  refine ⟨_, _, hcall k (congrArg Fin.val hk), hret k rfl, congrArg (· + 2) htop, hk.symm, fun j hj => ?live, ?frame⟩
  case live =>
    rw [hk] at hj
    exact Vector.getElem_set_ne k.isLt j.isLt (Nat.ne_of_gt hj)
  case frame => rw [htop, ← hk]

/-- Settles O29, pixel by pixel: both draws flip the pixels of the one sprite, so the second undoes the first. -/
theorem drawingTwiceRestoresTheDisplay : Obligations.DrawingTwiceRestoresTheDisplay := by
  unfold Obligations.DrawingTwiceRestoresTheDisplay
  intro s x y n hin hx hy
  refine ⟨_, _, exec_drw_of_inRange x y hin, exec_drw_of_inRange x y hin, ?_⟩
  refine Display.ext_pixel fun px py => ?_
  rw [State.drawn_disp, drawSprite_pixel, spriteCovers_drawn hx hy, State.drawn_disp, drawSprite_pixel]
  tauto

/-- Settles O38, since the step fetches the two bytes it finds at PC, which are those stored last. -/
theorem storedWordsAreFetched : Obligations.StoredWordsAreFetched := by
  unfold Obligations.StoredWordsAreFetched
  intro s w rnd hrun hwf hpc
  rw [stepWith_eq_executeTick, State.fetchWord_writeByte_writeByte _ _ hwf hpc, wordOfBytes_ofNat]
  · exact hrun
  · exact hpc

/-- Settles O39, from the execute phase, in which every instruction answers a next state. -/
theorem everyStepAnswersNext : Obligations.EveryStepAnswersNext := by
  unfold Obligations.EveryStepAnswersNext
  exact fun s rnd => stepWith_total rnd s

/-- Settles O44, from what every instruction leaves unchanged. -/
theorem onlyDisplayInstructionsWriteDisp : Obligations.OnlyDisplayInstructionsWriteDisp := by
  unfold Obligations.OnlyDisplayInstructionsWriteDisp
  exact fun i s t h => (exec_keepsUnwritten h).disp

/-- Settles O45, since a byte reads as before when memory and the table FONT are kept. -/
theorem onlyStoresWriteMemory : Obligations.OnlyStoresWriteMemory := by
  unfold Obligations.OnlyStoresWriteMemory
  intro i s t h hldB hldMem
  have hkept := exec_keepsUnwritten h
  exact congrFun (State.readByte_congr (hkept.mem hldB hldMem) hkept.font)

/-- Settles O46, from what every instruction leaves unchanged, `RET` leaving the entries too. -/
theorem onlyCallAndReturnTouchTheStack : Obligations.OnlyCallAndReturnTouchTheStack := by
  unfold Obligations.OnlyCallAndReturnTouchTheStack
  intro i s t h hcall
  have hkept := exec_keepsUnwritten h
  exact ⟨hkept.stack hcall, hkept.sp hcall⟩

/-- Settles O47, by the instruction's destinations. -/
theorem otherRegistersAreKept : Obligations.OtherRegistersAreKept := by
  unfold Obligations.OtherRegistersAreKept
  exact fun i s t k => exec_keeps_reg

/-- Settles O50, by whether the program fits: a load that does is one block write at 0x200. -/
theorem loadCopiesTheProgram : Obligations.LoadCopiesTheProgram := by
  unfold Obligations.LoadCopiesTheProgram
  refine fun s bytes hwf => ⟨fun hfits => ?_, s.load_tooLarge⟩
  refine ⟨_, s.load_fits hfits, fun j hj => ?_, fun a => s.readByte_writeBytes_outside bytes, rfl⟩
  exact State.readByte_writeBytes_inside bytes j hj hwf (by omega)

/-- Settles O55, clause by clause: a step the order allows is answered, since every step of the machine is. -/
theorem bootOrderIsEnforced : Obligations.BootOrderIsEnforced := by
  unfold Obligations.BootOrderIsEnforced
  refine ⟨fun f c hc => ?unreset, fun h => ?reset, fun s p bytes k rnd => ?live⟩
  case unreset =>
    cases c with
    | reset => exact absurd rfl hc
    | _ => rfl
  case reset =>
    obtain ⟨t, hreset, -⟩ := h.reset_clears_keys
    exact ⟨t, by rw [issue, hreset]⟩
  case live =>
    refine ⟨rfl, issue_load_of_fits s, issue_load_of_tooLarge s, rfl, rfl, rfl, rfl, rfl, fun hp => ?_⟩
    obtain ⟨t, ht⟩ := stepWith_total rnd s
    refine ⟨t, ht, ?_⟩
    obtain rfl | rfl := hp <;> exact issueRun_next ht

/-- Settles O56, along the run: the reset state meets the invariant, and the key settings, the load and then the steps
are taken and keep it. -/
theorem runsInBootOrderReachTheirEnd : Obligations.RunsInBootOrderReachTheirEnd := by
  unfold Obligations.RunsInBootOrderReachTheirEnd
  intro f keys bytes cs hfits hcs
  obtain ⟨s, hs, hkeys⟩ := issueAll_setKeys .fresh keys (.load bytes :: cs) (inv_resetWith f)
  have hreset : issue .reset (.unreset f) = .next (.live .fresh (State.resetWith f), .nothing) := rfl
  rw [issueAll_cons_of_next hreset, hkeys, issueAll_cons_of_next (issue_load_of_fits s hfits)]
  exact issueAll_running (.inl rfl) hcs (inv_load bytes hs)

/-- Settles O1, by running the decoder on each word. -/
theorem specWordsDecode : Obligations.SpecWordsDecode := by
  unfold Obligations.SpecWordsDecode
  decide

/-- Settles O4, from the fields as numbers. -/
theorem fieldsAreNibblesOfTheWord : Obligations.FieldsAreNibblesOfTheWord := by
  unfold Obligations.FieldsAreNibblesOfTheWord
  exact fun w => ⟨fieldClass_toNat w, fieldX_val w, fieldY_val w, fieldN_toNat w, fieldKK_toNat w, fieldNNN_toNat w⟩

/-- Settles O9, since each of the ten is a row whose one outcome is the advance of PC. -/
theorem noOpInstructionsOnlyAdvance : Obligations.NoOpInstructionsOnlyAdvance := by
  unfold Obligations.NoOpInstructionsOnlyAdvance
  intro s nnn x y kk
  and_intros
  all_goals exact exec_of_isNoOp s rfl

/-- Settles O35: each timer is decremented on its own, and BEEP is set by whether ST is 1. -/
theorem tickDecrementsNonzeroTimers : Obligations.TickDecrementsNonzeroTimers := by
  unfold Obligations.TickDecrementsNonzeroTimers
  refine fun s => ⟨decTimer_toNat s.dt, decTimer_toNat s.st, ?_, rfl⟩
  by_cases hst : s.st = 1 <;> simp [hst]

/-- Settles O53, field by field of the reset state. -/
theorem invariantAtReset : Obligations.InvariantAtReset := by
  unfold Obligations.InvariantAtReset
  exact ⟨inv_resetWith defaultFont, inv_resetWith⟩

end Sys2Proof
end
